-- ==== Sys2Proof/Word.lean ====
section
/-! DEFINITION. Word.lean: the cell widths of the block (00_scope.md R8, R9). Bit 0 of a value is
its least significant bit. -/

namespace Sys2Proof

/-- One 8-bit cell: an entry of `ENCTAB`, a byte of `SHARE`, a byte of a card (R21, R27, R35). -/
abbrev Byte := BitVec 8

/-- One 16-bit word of a ROM buffer (R32). -/
abbrev Half := BitVec 16

/-- One 32-bit register, key or command word (R23, R25, R83). -/
abbrev Word := BitVec 32

end Sys2Proof
end

