-- ==== Sys2Proof/Syntax.lean ====
section
/-! DEFINITION. Syntax.lean: the operations of the block, one constructor of `Instr` for each row of
spec/opcode_table.json, and the raw packets (bus transactions, engine requests, command words,
events) that the decoder reads (30_encoding.md R80 to R93). -/

namespace Sys2Proof

/-- The eight windows of the Address Dispatcher (30_encoding.md R81). `inert` stands for every
address of the range outside the other seven. -/
inductive Window where
  | enctab | dectrig | sprkey | banksel | mcureg | share | rtc | inert
  deriving DecidableEq, Repr, Inhabited

/-- The four ROM buffers (10_state.md R32). -/
inductive Region where
  | program | spriteMask | spriteColor | tile
  deriving DecidableEq, Repr, Inhabited

/-- Data on the host bus: the bytes of the value, byte 0 (bits 7:0 of the value, R9) first. The
list's length is the access width in bytes. -/
abbrev BusData := List Byte

/-- The direction of a transaction with its width (30_encoding.md R81): a read of `width` bytes, or
a write whose width is the number of data bytes. -/
inductive Access where
  | read (width : Nat)
  | write (data : BusData)
  deriving DecidableEq, Repr

/-- A decoded host transaction `(window, dir, off, width, value)` (30_encoding.md R81). For `mcureg`
the offset counts `MCU_REG_ADDR_UNIT`s, as R85 has it; for the others, bytes. -/
structure Txn where
  window : Window
  off : Nat
  access : Access
  deriving DecidableEq, Repr

/-- One less than how many substitution-table keys there are: OPEN (00_scope.md R7, D9). -/
opaque Config.subKeyCount : Nat

/-- The type of the title-specific substitution-table key: opaque (R7, D9). It is a finite type of a
size that nothing can prove, so that a state stays plain data while no claim can assume anything of
a key (log entry 19). -/
abbrev SubKey := Fin (Config.subKeyCount + 1)

/-- The per-title record `TitleKeys` (00_scope.md R7, 30_encoding.md R89). -/
structure TitleKeys where
  /-- `(addrMask, dataMask)` of the optional module layer. -/
  moduleLayer : Option (Nat × Half)
  maskKey : Half
  colorKey : Half
  predecrypted : Bool
  subKey : SubKey
  deriving DecidableEq, Repr, Inhabited

/-- The names that select an operation of format `ENGINE` (30_encoding.md R82, R91). -/
inductive EngineName where
  | wdeca | wdecb | crepack | modxor | decryptTitle | progdec
  deriving DecidableEq, Repr

/-- One operand of an engine request (30_encoding.md R82). -/
inductive Operand where
  | region (r : Region)
  | half (v : Half)
  | nat (n : Nat)
  | title (tk : TitleKeys)
  deriving DecidableEq, Repr

/-- The names that select an operation of format `EVENT` (30_encoding.md R93). -/
inductive EventName where
  | timerFire | frameTick
  deriving DecidableEq, Repr

/-- What the decoder reads: one value of one of the four formats of 30_encoding.md R80. -/
inductive Packet where
  | hostbus (t : Txn)
  | engine (op : EngineName) (operands : List Operand)
  | mcucmd (w : Word)
  | event (e : EventName)
  deriving DecidableEq, Repr

/-- The four formats of 30_encoding.md R80. -/
inductive Format where
  | hostbus | engine | mcucmd | event
  deriving DecidableEq, Repr

/-- The three argument bytes of a command word (30_encoding.md R83, R86). -/
structure CmdArgs where
  arg1 : Byte
  arg2 : Byte
  arg3 : Byte
  deriving DecidableEq, Repr, Inhabited

/-- What the command byte selects (30_encoding.md R92): the thirteen listed commands, and any other
byte. -/
inductive CmdOp where
  | getres | echo | shfill | ccheck | cready | cread | cwrite | cstub4 | cstub5 | cstub6
  | cident | cwrbyte | cstub9
  | unknown (cmd : Byte)
  deriving DecidableEq, Repr

/-- Why the decoder gives a packet no operation. Each is a packet for which the spec says that the
model refuses it; refusing is safe. -/
inductive DecodeError where
  /-- A transaction of no bytes: not an access (every width of R55 is at least one byte). -/
  | emptyAccess
  /-- A width that 20_memory.md R55 does not admit for the window (U7). -/
  | widthNotAdmitted (w : Window)
  /-- A `SHARE` access at window offset 128..255 (43_share_ram.md R177, U5). -/
  | shareOffset
  /-- A 32-bit access to a single-register window at an offset that is not a multiple of 4
  (20_memory.md R54, U7, decision D19). -/
  | misaligned (w : Window)
  /-- An offset at or beyond the window's size, which is no address of the window (R60). -/
  | offsetOutsideWindow (w : Window)
  /-- An engine request whose operands are not those 30_encoding.md R82 lists. -/
  | engineOperands (op : EngineName)
  deriving DecidableEq, Repr

/-- The agents that take steps (00_scope.md R14) and the operations they take. -/
inductive Agent where
  | host | boot | mcu | timer | frame
  deriving DecidableEq, Repr

/-- The operations of the block, one per row of spec/opcode_table.json, in the table's order. An
operand that the spec says is ignored is kept, so that an encoding loses nothing. -/
inductive Instr where
  /-- `ENCTAB.W k, v` (R146). -/
  | enctabW (k : Byte) (v : Byte)
  /-- `ENCTAB.R k` (R147). -/
  | enctabR (k : Byte)
  /-- `DECTRIG.R`, any width (R148). -/
  | dectrigR (width : Nat)
  /-- `DECTRIG.W v`, any value of any width (R149). -/
  | dectrigW (data : BusData)
  /-- `SPRKEY.W v` (R161). -/
  | sprkeyW (v : Word)
  /-- `SPRKEY.R`, any width (R162). -/
  | sprkeyR (width : Nat)
  /-- `BANKSEL.W v`, any width (R173). -/
  | bankselW (data : BusData)
  /-- `BANKSEL.R`, any width (R178). -/
  | bankselR (width : Nat)
  /-- `SHARE.R o` (R174). -/
  | shareR (o : BitVec 7)
  /-- `SHARE.W o, v` (R175). -/
  | shareW (o : BitVec 7) (v : Byte)
  /-- `MCUREG.R idx` (R192). -/
  | mcuregR (idx : Fin 8)
  /-- `MCUREG.W idx, v`, an index other than 2 and 5 (R191). -/
  | mcuregW (idx : Fin 8) (v : Word)
  /-- `MCU.ISSUE v` (R200). -/
  | mcuIssue (v : Word)
  /-- `MCU.ACK v` (R218). -/
  | mcuAck (v : Word)
  /-- `RTC.R` (R245). -/
  | rtcR
  /-- `RTC.W v` (R246). -/
  | rtcW (data : BusData)
  /-- `INERT.R`, any width (R243). -/
  | inertR (width : Nat)
  /-- `INERT.W v` (R244). -/
  | inertW (data : BusData)
  /-- `WDECA r, key` (R120). -/
  | wdeca (r : Region) (key : Half)
  /-- `WDECB r, key` (R121). -/
  | wdecb (r : Region) (key : Half)
  /-- `CREPACK r` (R123). -/
  | crepack (r : Region)
  /-- `MODXOR r, addrMask, dataMask` (R125). -/
  | modxor (r : Region) (addrMask : Nat) (dataMask : Half)
  /-- `DECRYPT_TITLE tk` (R141). -/
  | decryptTitle (tk : TitleKeys)
  /-- `PROGDEC` (R150). -/
  | progdec
  /-- `GETRES`, `cmd = 0xF6` (R202). -/
  | getres (args : CmdArgs)
  /-- `ECHO`, `cmd = 0xE0` (R203). -/
  | echo (args : CmdArgs)
  /-- `SHFILL`, `cmd = 0xE1` (R204, R216). -/
  | shfill (args : CmdArgs)
  /-- `CCHECK`, `cmd = 0xC0` (R206). -/
  | ccheck (args : CmdArgs)
  /-- `CREADY`, `cmd = 0xC1` (R207). -/
  | cready (args : CmdArgs)
  /-- `CREAD`, `cmd = 0xC2` (R208). -/
  | cread (args : CmdArgs)
  /-- `CWRITE`, `cmd = 0xC3` (R210). -/
  | cwrite (args : CmdArgs)
  /-- `CSTUB4`, `cmd = 0xC4` (R213). -/
  | cstub4 (args : CmdArgs)
  /-- `CSTUB5`, `cmd = 0xC5` (R215). -/
  | cstub5 (args : CmdArgs)
  /-- `CSTUB6`, `cmd = 0xC6` (R217). -/
  | cstub6 (args : CmdArgs)
  /-- `CIDENT`, `cmd = 0xC7` (R211). -/
  | cident (args : CmdArgs)
  /-- `CWRBYTE`, `cmd = 0xC8` (R212). -/
  | cwrbyte (args : CmdArgs)
  /-- `CSTUB9`, `cmd = 0xC9` (R221). -/
  | cstub9 (args : CmdArgs)
  /-- `UNKNOWN`: any other command byte (R214). -/
  | unknown (cmd : Byte) (args : CmdArgs)
  /-- `TIMER.FIRE` (R220). -/
  | timerFire
  /-- `FRAME.TICK` (R264). -/
  | frameTick
  deriving DecidableEq, Repr

/-- The operation of a command: the byte's selection with its argument bytes (R83, R92). -/
def CmdOp.toInstr (op : CmdOp) (a : CmdArgs) : Instr :=
  match op with
  | .getres => .getres a
  | .echo => .echo a
  | .shfill => .shfill a
  | .ccheck => .ccheck a
  | .cready => .cready a
  | .cread => .cread a
  | .cwrite => .cwrite a
  | .cstub4 => .cstub4 a
  | .cstub5 => .cstub5 a
  | .cstub6 => .cstub6 a
  | .cident => .cident a
  | .cwrbyte => .cwrbyte a
  | .cstub9 => .cstub9 a
  | .unknown cmd => .unknown cmd a

/-- The format of an operation's row (30_encoding.md R80, R90 to R93). -/
def Instr.format (i : Instr) : Format :=
  match i with
  | .enctabW _ _ | .enctabR _ | .dectrigR _ | .dectrigW _ | .sprkeyW _ | .sprkeyR _
  | .bankselW _ | .bankselR _ | .shareR _ | .shareW _ _ | .mcuregR _ | .mcuregW _ _
  | .mcuIssue _ | .mcuAck _ | .rtcR | .rtcW _ | .inertR _ | .inertW _ => .hostbus
  | .wdeca _ _ | .wdecb _ _ | .crepack _ | .modxor _ _ _ | .decryptTitle _ | .progdec => .engine
  | .getres _ | .echo _ | .shfill _ | .ccheck _ | .cready _ | .cread _ | .cwrite _ | .cstub4 _
  | .cstub5 _ | .cstub6 _ | .cident _ | .cwrbyte _ | .cstub9 _ | .unknown _ _ => .mcucmd
  | .timerFire | .frameTick => .event

/-- The agent that takes an operation (00_scope.md R14). `PROGDEC` is the body of a host write
(R150), so its agent is the host. -/
def Instr.agent (i : Instr) : Agent :=
  match i with
  | .enctabW _ _ | .enctabR _ | .dectrigR _ | .dectrigW _ | .sprkeyW _ | .sprkeyR _
  | .bankselW _ | .bankselR _ | .shareR _ | .shareW _ _ | .mcuregR _ | .mcuregW _ _
  | .mcuIssue _ | .mcuAck _ | .rtcR | .rtcW _ | .inertR _ | .inertW _ | .progdec => .host
  | .wdeca _ _ | .wdecb _ _ | .crepack _ | .modxor _ _ _ | .decryptTitle _ => .boot
  | .getres _ | .echo _ | .shfill _ | .ccheck _ | .cready _ | .cread _ | .cwrite _ | .cstub4 _
  | .cstub5 _ | .cstub6 _ | .cident _ | .cwrbyte _ | .cstub9 _ | .unknown _ _ => .mcu
  | .timerFire => .timer
  | .frameTick => .frame

end Sys2Proof
end

