-- ==== Sys2Proof/Config.lean ====
section
/-! DEFINITION. Config.lean: the configuration record `Cfg` of 00_scope.md R7 (every value the
source uses and does not give), the literals it does give, and the free values (draws) that the
spec leaves open. Nothing in this file gives an OPEN value: each is an opaque constant. -/

namespace Sys2Proof

/-- `Perm16`: sixteen distinct bit positions, read as "result bit `p` is source bit `P p`"
(00_scope.md R12). -/
abbrev Perm16 := Equiv.Perm (Fin 16)

/-- One positional decoder's constants (R7): phase 0 or 1, index shift, eleven 16-bit constants,
and the bit permutation. -/
structure DecoderCfg where
  phase : Fin 2
  shift : Nat
  xtab : Fin 11 → Half
  perm : Perm16
  deriving Inhabited

/-- `ROM_WORD_ORDER` (R7, R52): which byte of a ROM image is the low byte of a word. -/
inductive WordOrder where
  | little | big
  deriving DecidableEq, Repr, Inhabited

/-- `MCU_REG_ADDR_UNIT` (R7, R85): what the `address` of `(address >> 15) & 7` counts. -/
inductive AddrUnit where
  | byte | word32
  deriving DecidableEq, Repr, Inhabited

/-- The host address map (R60): the extent of `RANGE`, each window's base, and the unit of the
`MCUREG` window's addresses. All OPEN. -/
structure BusMap where
  rangeBase : Nat
  rangeSize : Nat
  base : Window → Nat
  regUnit : AddrUnit
  deriving Inhabited

/-- The implementation record of 00_scope.md R7, OPEN fields only. `cipherWord T K B i` is word `i`
of `ProgCipher(T, K, B)`: giving the cipher word by word makes every result exactly as long as `B`,
which is all R151 says of it. -/
structure Cfg where
  wdecA : DecoderCfg
  wdecB : DecoderCfg
  permColor : Perm16
  cipherWord : List Byte → SubKey → List Half → Nat → Half
  moduleRegion : Region
  romWordOrder : WordOrder
  busMap : BusMap
  inertReadValue : Word
  statusDone : Byte
  cardAbsentSentinel : Byte
  /-- `U_ISSUE`: ticks of one unit of an issue delay, positive (44_mcu_protocol.md R219). -/
  uIssue : ℕ+
  /-- `U_ACK`: ticks of one unit of the acknowledge delay, positive, not assumed equal (D32). -/
  uAck : ℕ+
  /-- The interrupt numbers: `IRQ_FRAME` is the image of 0 and `IRQ_MCU` of 1. Of a permutation these
  are any two distinct numbers, and distinct is all that is known of them (R7, D36). -/
  irqNumbers : Equiv.Perm Nat
  deriving Inhabited

/-- `IRQ_FRAME` (R7, 60_exceptions.md R263). -/
def Cfg.irqFrame (c : Cfg) : Nat := c.irqNumbers 0

/-- `IRQ_MCU` (R7, 60_exceptions.md R263). -/
def Cfg.irqMcu (c : Cfg) : Nat := c.irqNumbers 1

namespace Config

/-- The platform's configuration: OPEN, so without a value (R7). -/
opaque cfg : Cfg

/-- The title a run starts with before a cold reset names one: OPEN (R7, R40). -/
opaque title : TitleKeys

/-- The draw that entry `k` of `ENCTAB` holds after reset number `epoch` (R21, R41, D11). -/
opaque encTabDraw (epoch k : Nat) : Byte

/-- The draw that `SHARE[p]` holds after reset number `epoch` (R27, R41, D15). -/
opaque shareDraw (epoch p : Nat) : Byte

/-- What a mailbox register reads as while a completion is pending: any value, fresh at each read
`n` (R302, D34, U8). -/
opaque earlyMailbox (n : Nat) : Word

/-- The seconds counter's answer to read `n`, before the law of R245 bounds it from below. -/
opaque rtcDraw (n : Nat) : Word

/-- What a card answers to a read at an offset past its end, on occasion `n`: the card's own affair
(R69, R248, U16). -/
opaque cardPastEndRead (n off : Nat) : Byte

/-- What byte `i` of a card holds after a write past the card's end, on occasion `n`: the card's own
affair (R69, R248, U16). -/
opaque cardPastEndWrite (n i : Nat) : Byte

/-- Byte `k >= 4` of an inert read wider than the 32-bit `INERT_READ_VALUE`: the spec gives no value
(R148, R243). -/
opaque inertBeyond (k : Nat) : Byte

/-- `SPRKEY_MASK` (R7, R161). -/
def sprkeyMask : Word := 0x90055555#32

/-- `CARD_ID_CONST` (R7, R211). -/
def cardIdConst : Word := 0xF81F0000#32

/-- `STATUS_ACCEPTED` (R7, R88). -/
def statusAccepted : Byte := 0xF7#8

/-- `STATUS_NOCARD` (R7, R88). -/
def statusNoCard : Byte := 0xF4#8

/-- `STATUS_ERROR` (R7, R88). -/
def statusError : Byte := 0xF4#8

/-- `DELAY_DEFAULT` (R7, R225). -/
def delayDefault : Nat := 1

/-- `DELAY_E0` (R7, R225). -/
def delayEcho : Nat := 30

/-- `DELAY_ACK` (R7, R225). -/
def delayAck : Nat := 100

end Config

end Sys2Proof
end

