-- ==== Sys2Proof/Machine/State.lean ====
section
/-! DEFINITION. Machine/State.lean: the machine as plain data: every element of 10_state.md R20, the
state outside the block that its rules touch (R35, R36), and the model's own fields (the record of
passes, the bus answer, the event history, the schedule and two counters for free values). -/

namespace Sys2Proof.Machine

/-- A byte-cell space as the cells written since the last reset: address and byte, addresses
strictly rising. An address that is not listed holds no written byte; what the port then reads is
the cell's draw (log entry 4). -/
abbrev Memory := List Host.Cell

/-- The four ROM buffers as 16-bit words (10_state.md R32); `LEN[r]` is the list's length. -/
structure RomBank where
  program : List Half
  spriteMask : List Half
  spriteColor : List Half
  tile : List Half
  deriving DecidableEq, Repr

/-- The transforms of a ROM buffer (40_bit_transforms.md R120 to R125, 41_decrypt_engine.md R150). -/
inductive Transform where
  | modxor | wdeca | wdecb | crepack | progdec
  deriving DecidableEq, Repr

/-- One pass of a transform over a buffer. -/
structure Pass where
  transform : Transform
  region : Region
  deriving DecidableEq, Repr

/-- The byte images a ROM loader hands over, one per region (10_state.md R32, 20_memory.md R52). -/
structure RomImages where
  program : List Byte
  spriteMask : List Byte
  spriteColor : List Byte
  tile : List Byte
  deriving DecidableEq, Repr

/-- The unit a completion delay is counted in: `U_ISSUE` or `U_ACK`, not assumed equal (R7, D32). -/
inductive DelayUnit where
  | issue | ack
  deriving DecidableEq, Repr

/-- The one scheduled completion (10_state.md R33): armed for `count` units (44_mcu_protocol.md
R219). The model has no clock, so the due instant is not a number (R305, log entry 9). -/
structure Completion where
  count : Nat
  unit : DelayUnit
  deriving DecidableEq, Repr

/-- The two distinct interrupt identifiers (60_exceptions.md R263); `IrqId.number` gives the number of
each (log entry 10). -/
inductive IrqId where
  | frame | mcu
  deriving DecidableEq, Repr

/-- One record of the run's event history: an interrupt raised (60_exceptions.md R262) or a log
record of an unknown command (R275). -/
inductive Event where
  | irq (id : IrqId)
  | unknownCommand (reg0 reg1 : Word)
  deriving DecidableEq, Repr

/-- One input of the run's schedule (00_scope.md R40): a decoded operation, a host access by
physical address (R241), a step of the CARDS agent (R249), or a reset (R290, R291). -/
inductive Input where
  | op (p : Packet)
  | bus (addr : Nat) (access : Access)
  | insertCard (slot : Fin 4) (image : List Byte)
  | removeCard (slot : Fin 4)
  | warmReset
  | coldReset (images : RomImages) (title : TitleKeys)
  deriving DecidableEq, Repr

/-- The state of the machine. -/
structure State where
  /-- `ENCTAB`: entries written since reset (R21). -/
  encTab : Memory
  /-- `DecryptFlag` (R22). -/
  decryptFlag : Bool
  /-- `bootDone` (R37). -/
  bootDone : Bool
  /-- `ROM[r]` (R32). -/
  rom : RomBank
  /-- `SHARE`: bytes written since reset, by physical index (R27). -/
  share : Memory
  /-- `ShareBank` (R28). -/
  shareBank : BitVec 1
  /-- `REG[0..7]` (R23). -/
  regs : Vector Word 8
  /-- `rawKey` (R25). -/
  rawKey : Word
  /-- `realKey` (R25). -/
  realKey : Word
  /-- `lastCommand` (R29). -/
  lastCommand : Byte
  /-- `result0` (R29). -/
  result0 : Word
  /-- `result1` (R29). -/
  result1 : Word
  /-- `pendingEvent` (R33). -/
  pendingEvent : Option Completion
  /-- `CARD[0..3]`: empty, or a card's bytes (R35). -/
  cards : Vector (Option (List Byte)) 4
  /-- The run's title constants, `predecrypted` among them (R7, R25, R26). -/
  title : TitleKeys
  /-- The greatest answer an `RTC.R` of this run has given (R36, R245). -/
  rtcLast : Word
  /-- MODEL'S OWN: the passes the loaded ROM buffers have had, oldest first (R43 (I-a), log
  entry 25). -/
  passes : List Pass
  /-- MODEL'S OWN: the answer of the last read transaction. -/
  readData : Option BusData
  /-- MODEL'S OWN: the run's event history, oldest first (R262, R275). -/
  events : List Event
  /-- MODEL'S OWN: the inputs still to come, next first (R40). -/
  schedule : List Input
  /-- MODEL'S OWN: how many resets there have been, or had been at the capture that was restored last
  (log entry 21); indexes the reset draws (R41). -/
  epoch : Nat
  /-- MODEL'S OWN: how many free values have been drawn; no statement rests on it. -/
  draws : Nat
  deriving DecidableEq, Repr

/-- The reasons the machine stops with a fault. There is none: "The block raises no synchronous
exception, fault, trap or bus error, under any operation, operand or state" (60_exceptions.md R260).
Having no constructor is unsafe if the hardware does fault somewhere. -/
inductive Fault where
  deriving DecidableEq, Repr

/-- The reasons the model gives no meaning. All but `notModelled` are cases for which the spec says
that the model refuses, or that the operation is not enabled; each is safe (nothing can be proved of
a run that reaches it). -/
inductive Refusal where
  /-- Raised by `exec` for an operation without a meaning yet; safe. No arm raises it. -/
  | notModelled (mnemonic : String)
  /-- Raised by `step` for a packet the decoder refuses (R55, R177, U5, U7); safe. -/
  | undecodable (e : DecodeError)
  /-- Raised by `MODXOR` and `DECRYPT_TITLE` when `i ^ addrMask` leaves the buffer (R125, U2); safe. -/
  | moduleOutsideBuffer
  /-- Raised by `DECRYPT_TITLE` when `bootDone` is true (R143, U3); safe. -/
  | titleAlreadyDecrypted
  /-- Raised by `CREAD` and `CWRITE` (and by the issue that runs them) for more than 128 bytes with a
  card in the slot (R209, U6); safe. -/
  | copyBeyondBank
  /-- Raised by `TIMER.FIRE` when no event is pending, so that it is not enabled (R220); safe. -/
  | timerNotArmed
  /-- Raised by `step` for a host transaction while `bootDone` is false (R37, R293); safe. -/
  | hostBeforeBoot
  /-- Raised by `step` for a region transform presented by itself: the Bit-Transform Library is run
  "only by the BOOT agent (through `DECRYPT_TITLE`)" (40_bit_transforms.md R110); safe. -/
  | transformByName
  /-- Raised by `step` for `PROGDEC` presented by name: it "is never issued by name" (R82); safe. -/
  | progdecByName
  /-- Raised by `step` for a command word presented outside an issue (R14, R200); safe. -/
  | commandOutsideIssue
  /-- Raised by a cold reset with a ROM image of odd length (R52, U15); safe. -/
  | oddRomImage
  /-- Raised by the insertion of a card into a slot that holds one: no such step (R249); safe. -/
  | slotOccupied
  /-- Raised by the removal of a card from an empty slot: no such step (R249); safe. -/
  | slotEmpty
  deriving DecidableEq, Repr

/-- What a meaning answers. -/
abbrev Answer := Host.Outcome State Fault Refusal

/-- The machine after a cold reset (10_state.md R41) with nothing loaded and nothing scheduled: the
zeros are decision D15 (log entry 3), the empty buffers and slots and the counters are the model's
(log entries 4, 5, 8, 11, 12, 25). -/
def State.reset : State :=
  { encTab := []
    decryptFlag := false
    bootDone := false
    rom := { program := [], spriteMask := [], spriteColor := [], tile := [] }
    share := []
    shareBank := 0#1
    regs := Vector.replicate 8 0#32
    rawKey := 0#32
    realKey := 0#32
    lastCommand := 0#8
    result0 := 0#32
    result1 := 0#32
    pendingEvent := none
    cards := Vector.replicate 4 none
    title := Config.title
    rtcLast := 0#32
    passes := []
    readData := none
    events := []
    schedule := []
    epoch := 0
    draws := 0 }

end Sys2Proof.Machine
end

