-- ==== Sys2Proof/Machine/Flags.lean ====
section
/-! DEFINITION. Machine/Flags.lean: the one condition code of the block, the status byte
`REG[3][23:16]` (10_state.md R30, R31), and the protocol labels (R34). -/

namespace Sys2Proof.Machine

/-- The status byte of a mailbox word: bits 23:16 (30_encoding.md R84). -/
def statusOf (w : Word) : Byte := w.extractLsb' 16 8

/-- The pack of a status: `(w & 0xFF00FFFF) | (status << 16)` (30_encoding.md R84). -/
def packStatus (w : Word) (status : Byte) : Word :=
  (w &&& 0xFF00FFFF#32) ||| (status.setWidth 32 <<< 16)

/-- The three labels D0 gives the protocol (10_state.md R34). -/
inductive ProtocolLabel where
  | idle | processing | resultPending
  deriving DecidableEq, Repr

/-- The label of a state: a function of `lastCommand` and `pendingEvent`, stored nowhere and read by
no rule (R34). -/
def protocolLabel (s : State) : ProtocolLabel :=
  if s.lastCommand = 0#8 then .idle
  else match s.pendingEvent with
    | some _ => .processing
    | none => .resultPending

end Sys2Proof.Machine
end

