-- ==== Sys2Proof/WellFormed.lean ====
section
/-! DEFINITION. WellFormed.lean: which terms of `Instr` are operations of the block. The operand
types carry most of it; what is left is said here. -/

namespace Sys2Proof

/-- The thirteen command bytes that select a named command (30_encoding.md R92). -/
def listedCommands : List Byte :=
  [0xF6#8, 0xE0#8, 0xE1#8, 0xC0#8, 0xC1#8, 0xC2#8, 0xC3#8, 0xC4#8, 0xC5#8, 0xC6#8, 0xC7#8, 0xC8#8,
    0xC9#8]

/-- An operation as the table has it: an access moves at least one byte (R55); `MCUREG.W` is a write
to a register other than the two strobes (R191); `UNKNOWN` has a command byte that is not listed
(R214). -/
def Instr.wellFormed (i : Instr) : Bool :=
  match i with
  | .dectrigR width | .sprkeyR width | .bankselR width | .inertR width => decide (0 < width)
  | .dectrigW data | .bankselW data | .rtcW data | .inertW data => !data.isEmpty
  | .mcuregW idx _ => decide (idx ≠ 2 ∧ idx ≠ 5)
  | .unknown cmd _ => !listedCommands.contains cmd
  | .enctabW _ _ | .enctabR _ | .sprkeyW _ | .shareR _ | .shareW _ _ | .mcuregR _ | .mcuIssue _
  | .mcuAck _ | .rtcR => true
  | .wdeca _ _ | .wdecb _ _ | .crepack _ | .modxor _ _ _ | .decryptTitle _ | .progdec => true
  | .getres _ | .echo _ | .shfill _ | .ccheck _ | .cready _ | .cread _ | .cwrite _ | .cstub4 _
  | .cstub5 _ | .cstub6 _ | .cident _ | .cwrbyte _ | .cstub9 _ => true
  | .timerFire | .frameTick => true

end Sys2Proof
end

