-- ==== Sys2Proof/Decode.lean ====
section
/-! DEFINITION. Decode.lean: the three decodes of the block (30_encoding.md): a transaction of a
window into an operation, an MCU register address into an index, a command word into a command byte
and three argument bytes. Then the encoder, and the reading of the opcode table's numbers. -/

namespace Sys2Proof

/-! ### Byte and field helpers (00_scope.md R9) -/

/-- Byte `k` of a 32-bit value: bits `8k+7:8k` (R9, D1). -/
def byteOf (v : Word) (k : Nat) : Byte := v.extractLsb' (8 * k) 8

/-- The four bytes of a 32-bit value, byte 0 first. -/
def wordData (v : Word) : BusData := [byteOf v 0, byteOf v 1, byteOf v 2, byteOf v 3]

/-- The 32-bit value of four data bytes, byte 0 first. -/
def wordOfBytes (b0 b1 b2 b3 : Byte) : Word := b3 ++ b2 ++ b1 ++ b0

/-- The argument bytes of a command word: bytes 1 to 3 (30_encoding.md R83, R86). -/
def argsOf (w : Word) : CmdArgs := { arg1 := byteOf w 1, arg2 := byteOf w 2, arg3 := byteOf w 3 }

/-- The command word with the given bytes (30_encoding.md R83). -/
def commandWord (cmd : Byte) (a : CmdArgs) : Word := wordOfBytes cmd a.arg1 a.arg2 a.arg3

/-- What a command byte selects (30_encoding.md R92). -/
def cmdOp (cmd : Byte) : CmdOp :=
  if cmd = 0xF6#8 then .getres
  else if cmd = 0xE0#8 then .echo
  else if cmd = 0xE1#8 then .shfill
  else if cmd = 0xC0#8 then .ccheck
  else if cmd = 0xC1#8 then .cready
  else if cmd = 0xC2#8 then .cread
  else if cmd = 0xC3#8 then .cwrite
  else if cmd = 0xC4#8 then .cstub4
  else if cmd = 0xC5#8 then .cstub5
  else if cmd = 0xC6#8 then .cstub6
  else if cmd = 0xC7#8 then .cident
  else if cmd = 0xC8#8 then .cwrbyte
  else if cmd = 0xC9#8 then .cstub9
  else .unknown cmd

/-- The operation of a command word: selected by byte 0 alone (30_encoding.md R83). Every word has
one. -/
def decodeCommand (w : Word) : Instr := (cmdOp (byteOf w 0)).toInstr (argsOf w)

/-- The register index of an `MCUREG` address: `(a >> 15) & 7` (30_encoding.md R85). -/
def regIndex (a : Nat) : Fin 8 := ⟨(a >>> 15) % 8, Nat.mod_lt _ (by decide)⟩

/-! ### The decoder -/

/-- A 32-bit `MCUREG` write, by register index (30_encoding.md R90). -/
def decodeRegWrite (idx : Fin 8) (v : Word) : Instr :=
  if idx = 2 then .mcuIssue v else if idx = 5 then .mcuAck v else .mcuregW idx v

/-- A read of `width` bytes, at least one (30_encoding.md R81, R87, R90; widths R55,
alignment R54). -/
def decodeRead (w : Window) (off width : Nat) : Except DecodeError Instr :=
  match w with
  | .enctab =>
    if width ≠ 1 then .error (.widthNotAdmitted .enctab)
    else if 256 ≤ off then .error (.offsetOutsideWindow .enctab)
    else .ok (.enctabR (BitVec.ofNat 8 off))
  | .dectrig => .ok (.dectrigR width)
  | .sprkey => .ok (.sprkeyR width)
  | .banksel => .ok (.bankselR width)
  | .mcureg =>
    if width ≠ 4 then .error (.widthNotAdmitted .mcureg) else .ok (.mcuregR (regIndex off))
  | .share =>
    if width ≠ 1 then .error (.widthNotAdmitted .share)
    else if 256 ≤ off then .error (.offsetOutsideWindow .share)
    else if 128 ≤ off then .error .shareOffset
    else .ok (.shareR (BitVec.ofNat 7 off))
  | .rtc =>
    if width ≠ 4 then .error (.widthNotAdmitted .rtc)
    else if off % 4 ≠ 0 then .error (.misaligned .rtc)
    else .ok .rtcR
  | .inert => .ok (.inertR width)

/-- A write of some bytes, at least one (30_encoding.md R81, R87, R90; widths R55,
alignment R54). -/
def decodeWrite (w : Window) (off : Nat) (data : BusData) : Except DecodeError Instr :=
  match w, data with
  | .enctab, [v] =>
    if 256 ≤ off then .error (.offsetOutsideWindow .enctab)
    else .ok (.enctabW (BitVec.ofNat 8 off) v)
  | .enctab, _ => .error (.widthNotAdmitted .enctab)
  | .dectrig, data => .ok (.dectrigW data)
  | .sprkey, [b0, b1, b2, b3] =>
    if off % 4 ≠ 0 then .error (.misaligned .sprkey)
    else .ok (.sprkeyW (wordOfBytes b0 b1 b2 b3))
  | .sprkey, _ => .error (.widthNotAdmitted .sprkey)
  | .banksel, data => .ok (.bankselW data)
  | .mcureg, [b0, b1, b2, b3] => .ok (decodeRegWrite (regIndex off) (wordOfBytes b0 b1 b2 b3))
  | .mcureg, _ => .error (.widthNotAdmitted .mcureg)
  | .share, [v] =>
    if 256 ≤ off then .error (.offsetOutsideWindow .share)
    else if 128 ≤ off then .error .shareOffset
    else .ok (.shareW (BitVec.ofNat 7 off) v)
  | .share, _ => .error (.widthNotAdmitted .share)
  | .rtc, data => .ok (.rtcW data)
  | .inert, data => .ok (.inertW data)

/-- A host transaction (30_encoding.md R81); an access of no bytes is none. -/
def decodeHost (t : Txn) : Except DecodeError Instr :=
  match t.access with
  | .read width => if width = 0 then .error .emptyAccess else decodeRead t.window t.off width
  | .write data => if data = [] then .error .emptyAccess else decodeWrite t.window t.off data

/-- An engine request: `(op, operands)` (30_encoding.md R82). -/
def decodeEngine (op : EngineName) (operands : List Operand) : Except DecodeError Instr :=
  match op, operands with
  | .wdeca, [.region r, .half key] => .ok (.wdeca r key)
  | .wdecb, [.region r, .half key] => .ok (.wdecb r key)
  | .crepack, [.region r] => .ok (.crepack r)
  | .modxor, [.region r, .nat addrMask, .half dataMask] => .ok (.modxor r addrMask dataMask)
  | .decryptTitle, [.title tk] => .ok (.decryptTitle tk)
  | .progdec, [] => .ok .progdec
  | op, _ => .error (.engineOperands op)

/-- An event (30_encoding.md R93). -/
def decodeEvent (e : EventName) : Instr :=
  match e with
  | .timerFire => .timerFire
  | .frameTick => .frameTick

/-- The decoder: total on packets, and refusing by name what the spec gives no operation. -/
def decode (p : Packet) : Except DecodeError Instr :=
  match p with
  | .hostbus t => decodeHost t
  | .engine op operands => decodeEngine op operands
  | .mcucmd w => .ok (decodeCommand w)
  | .event e => .ok (decodeEvent e)

/-! ### The encoder -/

/-- A read transaction. -/
def readPacket (w : Window) (off width : Nat) : Packet :=
  .hostbus { window := w, off := off, access := .read width }

/-- A write transaction. -/
def writePacket (w : Window) (off : Nat) (data : BusData) : Packet :=
  .hostbus { window := w, off := off, access := .write data }

/-- The lowest `MCUREG` address of register `idx`: `idx << 15` (30_encoding.md R98). -/
def regAddress (idx : Fin 8) : Nat := idx.val <<< 15

/-- The packet of an operation, from the same tables (30_encoding.md R81 to R93): where the spec
ignores the offset it is 0, and where it ignores low address bits they are 0. -/
def encode (i : Instr) : Packet :=
  match i with
  | .enctabW k v => writePacket .enctab k.toNat [v]
  | .enctabR k => readPacket .enctab k.toNat 1
  | .dectrigR width => readPacket .dectrig 0 width
  | .dectrigW data => writePacket .dectrig 0 data
  | .sprkeyW v => writePacket .sprkey 0 (wordData v)
  | .sprkeyR width => readPacket .sprkey 0 width
  | .bankselW data => writePacket .banksel 0 data
  | .bankselR width => readPacket .banksel 0 width
  | .shareR o => readPacket .share o.toNat 1
  | .shareW o v => writePacket .share o.toNat [v]
  | .mcuregR idx => readPacket .mcureg (regAddress idx) 4
  | .mcuregW idx v => writePacket .mcureg (regAddress idx) (wordData v)
  | .mcuIssue v => writePacket .mcureg (regAddress 2) (wordData v)
  | .mcuAck v => writePacket .mcureg (regAddress 5) (wordData v)
  | .rtcR => readPacket .rtc 0 4
  | .rtcW data => writePacket .rtc 0 data
  | .inertR width => readPacket .inert 0 width
  | .inertW data => writePacket .inert 0 data
  | .wdeca r key => .engine .wdeca [.region r, .half key]
  | .wdecb r key => .engine .wdecb [.region r, .half key]
  | .crepack r => .engine .crepack [.region r]
  | .modxor r addrMask dataMask => .engine .modxor [.region r, .nat addrMask, .half dataMask]
  | .decryptTitle tk => .engine .decryptTitle [.title tk]
  | .progdec => .engine .progdec []
  | .getres a => .mcucmd (commandWord 0xF6#8 a)
  | .echo a => .mcucmd (commandWord 0xE0#8 a)
  | .shfill a => .mcucmd (commandWord 0xE1#8 a)
  | .ccheck a => .mcucmd (commandWord 0xC0#8 a)
  | .cready a => .mcucmd (commandWord 0xC1#8 a)
  | .cread a => .mcucmd (commandWord 0xC2#8 a)
  | .cwrite a => .mcucmd (commandWord 0xC3#8 a)
  | .cstub4 a => .mcucmd (commandWord 0xC4#8 a)
  | .cstub5 a => .mcucmd (commandWord 0xC5#8 a)
  | .cstub6 a => .mcucmd (commandWord 0xC6#8 a)
  | .cident a => .mcucmd (commandWord 0xC7#8 a)
  | .cwrbyte a => .mcucmd (commandWord 0xC8#8 a)
  | .cstub9 a => .mcucmd (commandWord 0xC9#8 a)
  | .unknown cmd a => .mcucmd (commandWord cmd a)
  | .timerFire => .event .timerFire
  | .frameTick => .event .frameTick

/-- The format of a packet (30_encoding.md R80). -/
def Packet.format (p : Packet) : Format :=
  match p with
  | .hostbus _ => .hostbus
  | .engine _ _ => .engine
  | .mcucmd _ => .mcucmd
  | .event _ => .event

/-! ### The opcode table's numbers -/

/-- The packet that a number of the opcode table stands for (30_encoding.md R98): the table's numbers
of 24 bits are `MCUREG`-window addresses of a 32-bit write, whose data (which the table gives no
bits) is zero; a number of 32 bits, or one with a command byte, is a command word. Window, direction
and engine name are no part of any number of the table, so no other number selects an operation
(log entry 2). -/
def tablePacket (nbits w : Nat) : Option Packet :=
  if nbits = 24 then some (writePacket .mcureg w [0#8, 0#8, 0#8, 0#8])
  else if nbits = 32 ∨ w % 256 ≠ 0 then some (.mcucmd (BitVec.ofNat 32 w))
  else none

/-- What the decoder reads from a number of the opcode table; none where the number alone selects no
operation. -/
def decodeTableWord (nbits w : Nat) : Option Instr :=
  match tablePacket nbits w with
  | none => none
  | some p =>
    match decode p with
    | .ok i => some i
    | .error _ => none

end Sys2Proof
end

