-- ==== Sys2Proof/Machine/Operands.lean ====
section
/-! DEFINITION. Machine/Operands.lean: operand assembly (30_encoding.md section 2), the bank
translation of the two ports (43_share_ram.md R171, R172), and the data of an inert read. -/

namespace Sys2Proof.Machine

/-- The card slot of a card command: `arg1 & 3` (30_encoding.md R86). -/
def cardSlot (a : CmdArgs) : Fin 4 := ⟨a.arg1.toNat % 4, Nat.mod_lt _ (by decide)⟩

/-- The card offset of a card command: `arg2`, unscaled (R86). -/
def cardOffset (a : CmdArgs) : Nat := a.arg2.toNat

/-- The byte count of `CREAD` and `CWRITE`: `arg3` (R86). -/
def copyCount (a : CmdArgs) : Nat := a.arg3.toNat

/-- The bank of a `BANKSEL` write: bit 0 of the value (R87). -/
def bankBit (data : BusData) : BitVec 1 :=
  match data with
  | [] => 0#1
  | b :: _ => b.extractLsb' 0 1

/-- Port A's physical index: `o + 128 * ShareBank` (43_share_ram.md R171). -/
def portAIndex (bank : BitVec 1) (o : Nat) : Nat := o + 128 * bank.toNat

/-- Port B's physical index: `o + 128 * (1 - ShareBank)` (43_share_ram.md R172). -/
def portBIndex (bank : BitVec 1) (o : Nat) : Nat := o + 128 * (1 - bank.toNat)

/-- Byte `k` of an inert read: of `INERT_READ_VALUE`, or a free value past its four bytes (R148,
R243, log entry 12). -/
def inertByte (k : Nat) : Byte :=
  if k < 4 then byteOf Config.cfg.inertReadValue k else Config.inertBeyond k

/-- What an inert read of `width` bytes answers: the low bytes of `INERT_READ_VALUE` (R148, R243). -/
def inertData (width : Nat) : BusData := (List.range width).map inertByte

end Sys2Proof.Machine
end

