-- ==== Sys2Proof/Machine/Ops.lean ====
section
/-! DEFINITION. Machine/Ops.lean: the named operations over the state: byte memory, the MCU
registers, `ENCTAB`, the two ports of `SHARE`, the ROM buffers, the card interface, the completion
timer, and the events. The block takes no exception and returns from none (60_exceptions.md R260,
R267, R268); what stands in that place is `raiseIrq`. -/

namespace Sys2Proof.Machine

/-! ### Byte memory -/

/-- The byte an address holds, if one has been written. -/
def Memory.read (m : Memory) (a : Nat) : Option Byte :=
  match m with
  | [] => none
  | (b, v) :: rest => if a = b then some v else Memory.read rest a

/-- Writes one byte, keeping the addresses strictly rising. -/
def Memory.write (m : Memory) (a : Nat) (v : Byte) : Memory :=
  match m with
  | [] => [(a, v)]
  | (b, w) :: rest =>
    if a < b then (a, v) :: (b, w) :: rest
    else if a = b then (a, v) :: rest
    else (b, w) :: Memory.write rest a v

/-- Writes bytes at consecutive addresses from `a` upward. -/
def Memory.writeList (m : Memory) (a : Nat) (vs : List Byte) : Memory :=
  match vs with
  | [] => m
  | v :: rest => Memory.writeList (Memory.write m a v) (a + 1) rest

/-- Every listed address is greater than `a`. -/
def Memory.above (a : Nat) (m : Memory) : Bool := m.all fun c => decide (a < c.1)

/-- The canonical form: addresses strictly rising. An unlisted address holds no byte, so no entry
equals what an unlisted address reads as. -/
def Memory.wf (m : Memory) : Bool :=
  match m with
  | [] => true
  | (a, _) :: rest => Memory.above a rest && Memory.wf rest

/-- Every listed address is below `n`. -/
def Memory.below (n : Nat) (m : Memory) : Bool := m.all fun c => decide (c.1 < n)

/-! ### MCU registers (10_state.md R23) -/

/-- `REG[i]`. -/
def State.reg (s : State) (i : Fin 8) : Word := s.regs[i]

/-- `REG[i] <- v`. -/
def State.setReg (s : State) (i : Fin 8) (v : Word) : State := { s with regs := s.regs.set i v }

/-- The status pack: only bits 23:16 of `REG[3]` change (30_encoding.md R84). -/
def State.setStatus (s : State) (status : Byte) : State :=
  s.setReg 3 (packStatus (s.reg 3) status)

/-! ### `ENCTAB` (10_state.md R21) -/

/-- `ENCTAB[k]`: the byte written since reset, else the entry's draw (D11). -/
def State.encTabByte (s : State) (k : Nat) : Byte :=
  (Memory.read s.encTab k).getD (Config.encTabDraw s.epoch k)

/-- `ENCTAB[k] <- v`. -/
def State.setEncTab (s : State) (k : Nat) (v : Byte) : State :=
  { s with encTab := Memory.write s.encTab k v }

/-- The 256 table bytes as they are now (41_decrypt_engine.md R150). -/
def State.encTable (s : State) : List Byte := (List.range 256).map s.encTabByte

/-! ### `SHARE` and its two ports (43_share_ram.md) -/

/-- `SHARE[p]`: the byte written since reset, else the cell's draw (10_state.md R27). -/
def State.shareByte (s : State) (p : Nat) : Byte :=
  (Memory.read s.share p).getD (Config.shareDraw s.epoch p)

/-- `MemRead(HOST, SHARE, o, 1)` (R174). -/
def State.portARead (s : State) (o : Nat) : Byte := s.shareByte (portAIndex s.shareBank o)

/-- `MemWrite(HOST, SHARE, o, 1, v)` (R175). -/
def State.portAWrite (s : State) (o : Nat) (v : Byte) : State :=
  { s with share := Memory.write s.share (portAIndex s.shareBank o) v }

/-- `PB.READ o` (R179). -/
def State.portBRead (s : State) (o : Nat) : Byte := s.shareByte (portBIndex s.shareBank o)

/-- `PB.WRITE 0, v0; PB.WRITE 1, v1; ...` (R179): the byte writes of one command, whose logical
offsets start at 0. -/
def State.portBWriteList (s : State) (vs : List Byte) : State :=
  { s with share := Memory.writeList s.share (portBIndex s.shareBank 0) vs }

/-! ### ROM buffers (10_state.md R32) -/

/-- `ROM[r]`. -/
def RomBank.get (rom : RomBank) (r : Region) : List Half :=
  match r with
  | .program => rom.program
  | .spriteMask => rom.spriteMask
  | .spriteColor => rom.spriteColor
  | .tile => rom.tile

/-- `ROM[r] <- words`. -/
def RomBank.set (rom : RomBank) (r : Region) (words : List Half) : RomBank :=
  match r with
  | .program => { rom with program := words }
  | .spriteMask => { rom with spriteMask := words }
  | .spriteColor => { rom with spriteColor := words }
  | .tile => { rom with tile := words }

/-- One pass of a transform over a buffer: its words change, and the pass is recorded. -/
def State.runPass (s : State) (t : Transform) (r : Region) (words : List Half) : State :=
  { s with rom := s.rom.set r words, passes := s.passes ++ [{ transform := t, region := r }] }

/-- The words of a byte image (20_memory.md R52): word `i` is bytes `2i` and `2i+1` in the given
order; an image of odd length has no word view. -/
def wordsOfImage (order : WordOrder) (image : List Byte) : Option (List Half) :=
  match image with
  | [] => some []
  | [_] => none
  | b0 :: b1 :: rest =>
    match wordsOfImage order rest with
    | none => none
    | some ws =>
      match order with
      | .little => some ((b1 ++ b0) :: ws)
      | .big => some ((b0 ++ b1) :: ws)

/-- The ROM buffers with the given images loaded; none if one has odd length. -/
def loadImages (order : WordOrder) (images : RomImages) : Option RomBank :=
  match wordsOfImage order images.program, wordsOfImage order images.spriteMask,
      wordsOfImage order images.spriteColor, wordsOfImage order images.tile with
  | some p, some m, some c, some t =>
    some { program := p, spriteMask := m, spriteColor := c, tile := t }
  | _, _, _, _ => none

/-! ### The card interface (45_dispatcher_rtc_card.md R248) -/

/-- `CardPresent(slot)`. -/
def State.cardPresent (s : State) (slot : Fin 4) : Bool := s.cards[slot].isSome

/-- `CardRead(slot, off)`: the card's byte; the sentinel for an empty slot; a free value past the
card's end (R69, log entry 11). -/
def State.cardRead (s : State) (slot : Fin 4) (off : Nat) : Byte :=
  match s.cards[slot] with
  | none => Config.cfg.cardAbsentSentinel
  | some bytes => bytes[off]?.getD (Config.cardPastEndRead s.draws off)

/-- `CardWrite(slot, off, b)`: stores the byte; does nothing on an empty slot; past the card's end
leaves every byte of the card a free value, its length unchanged (R69, log entry 11). -/
def State.cardWrite (s : State) (slot : Fin 4) (off : Nat) (b : Byte) : State :=
  match s.cards[slot] with
  | none => s
  | some bytes =>
    if off < bytes.length then { s with cards := s.cards.set slot (some (bytes.set off b)) }
    else
      { s with
        cards := s.cards.set slot
          (some ((List.range bytes.length).map (Config.cardPastEndWrite s.draws)))
        draws := s.draws + 1 }

/-- `CardWrite(slot, off, v0); CardWrite(slot, off + 1, v1); ...` -/
def State.cardWriteList (s : State) (slot : Fin 4) (off : Nat) (vs : List Byte) : State :=
  match vs with
  | [] => s
  | v :: rest => State.cardWriteList (s.cardWrite slot off v) slot (off + 1) rest

/-! ### Events, the completion timer, the bus answer -/

/-- The number of an interrupt identifier: `IRQ_FRAME` or `IRQ_MCU` (60_exceptions.md R263). -/
def IrqId.number (c : Cfg) (id : IrqId) : Nat :=
  match id with
  | .frame => c.irqFrame
  | .mcu => c.irqMcu

/-- `raise IRQ(id)`: one record in the run's history and nothing else (60_exceptions.md R262). -/
def State.raiseIrq (s : State) (id : IrqId) : State := { s with events := s.events ++ [.irq id] }

/-- `log(UnknownCommand, r0, r1)` (60_exceptions.md R275). -/
def State.logUnknown (s : State) (r0 r1 : Word) : State :=
  { s with events := s.events ++ [.unknownCommand r0 r1] }

/-- How long one unit is: `U_ISSUE` or `U_ACK` (00_scope.md R7). -/
def DelayUnit.ticks (c : Cfg) (u : DelayUnit) : Nat :=
  match u with
  | .issue => c.uIssue
  | .ack => c.uAck

/-- The delay `d * u` after which an armed event is due (44_mcu_protocol.md R219). The untimed step
does not read it (70_reset_and_hazards.md R305, log entry 9). -/
def Completion.delay (c : Cfg) (e : Completion) : Nat := e.count * e.unit.ticks c

/-- `arm(d, u)`: the one pending event, whatever it was, becomes this one (44_mcu_protocol.md R219). -/
def State.arm (s : State) (count : Nat) (unit : DelayUnit) : State :=
  { s with pendingEvent := some { count := count, unit := unit } }

/-- The answer of a read transaction. -/
def State.answer (s : State) (data : BusData) : State := { s with readData := some data }

/-- One free value has been drawn. -/
def State.tick (s : State) : State := { s with draws := s.draws + 1 }

end Sys2Proof.Machine
end

