-- ==== Sys2Proof/Machine/Transforms.lean ====
section
/-! DEFINITION. Machine/Transforms.lean: the Bit-Transform Library (40_bit_transforms.md), each
function over a word or a buffer, with its constants as arguments (R110). -/

namespace Sys2Proof.Machine

/-- `permute16(P, w)`: result bit `p` is source bit `P[p]` (R111). -/
def permute16 (P : Perm16) (w : Half) : Half := BitVec.ofFnLE fun p => w.getLsbD (P p).val

/-- `reverse32(v)`: result bit `p` is source bit `31 - p` (R118). -/
def reverse32 (v : Word) : Word := BitVec.ofFnLE fun p : Fin 32 => v.getLsbD (31 - p.val)

/-- `posmask(c, i)`: the constants of the set bits among bits 0 to 10 of the shifted index, combined
by exclusive or (R114). -/
def posmask (c : DecoderCfg) (i : Nat) : Half :=
  (List.finRange 11).foldl
    (fun m b => if (i >>> c.shift).testBit b.val then m ^^^ c.xtab b else m) 0#16

/-- One visited word of a positional decoder: exclusive or first, permutation second (R117). -/
def decodeWord (c : DecoderCfg) (key : Half) (i : Nat) (w : Half) : Half :=
  permute16 c.perm (w ^^^ posmask c i ^^^ key)

/-- `wdec(c, B, key)`: the words whose index has the parity of the phase are decoded, the others
keep their value (R117). -/
def wdec (c : DecoderCfg) (key : Half) (words : List Half) : List Half :=
  words.mapIdx fun i w => if i % 2 = c.phase.val then decodeWord c key i w else w

/-- The body of `CREPACK`: every word is permuted (R123). -/
def repack (P : Perm16) (words : List Half) : List Half := words.map (permute16 P)

/-- The precondition of `MODXOR`: no source index leaves the buffer (R125). -/
def modXorInRange (addrMask n : Nat) : Bool :=
  (List.range n).all fun i => decide (i ^^^ addrMask < n)

/-- The body of `MODXOR`: `dst[i] = src[i ^ addrMask] ^ dataMask` with `src` the buffer as it was
(R125); the index is a natural number (R127). -/
def modXorWords (addrMask : Nat) (dataMask : Half) (words : List Half) : List Half :=
  (List.range words.length).map fun i => words.getD (i ^^^ addrMask) 0#16 ^^^ dataMask

/-- `MODXOR` on a buffer; none where its precondition fails (R125, U2). -/
def modXor (addrMask : Nat) (dataMask : Half) (words : List Half) : Option (List Half) :=
  if modXorInRange addrMask words.length then some (modXorWords addrMask dataMask words) else none

/-- `ProgCipher(T, K, B)` (41_decrypt_engine.md R151): word by word, so as long as `B`. -/
def progCipher (c : Cfg) (table : List Byte) (key : SubKey) (words : List Half) : List Half :=
  (List.range words.length).map (c.cipherWord table key words)

/-- Step (1) of `DECRYPT_TITLE`: the optional module layer (41_decrypt_engine.md R141). -/
def moduleLayer (c : Cfg) (tk : TitleKeys) (rom : RomBank) : Option RomBank :=
  match tk.moduleLayer with
  | none => some rom
  | some (addrMask, dataMask) =>
    match modXor addrMask dataMask (rom.get c.moduleRegion) with
    | none => none
    | some words => some (rom.set c.moduleRegion words)

/-- Steps (2) and (3) of `DECRYPT_TITLE`: decoder A on the sprite-mask region, decoder B and then
the colour repack on the sprite-colour region (41_decrypt_engine.md R141). -/
def spriteLayers (c : Cfg) (tk : TitleKeys) (rom : RomBank) : RomBank :=
  { rom with
    spriteMask := wdec c.wdecA tk.maskKey rom.spriteMask
    spriteColor := repack c.permColor (wdec c.wdecB tk.colorKey rom.spriteColor) }

/-- The passes that `DECRYPT_TITLE tk` makes, in order (41_decrypt_engine.md R141). -/
def titlePasses (c : Cfg) (tk : TitleKeys) : List Pass :=
  (match tk.moduleLayer with
    | none => []
    | some _ => [{ transform := .modxor, region := c.moduleRegion }]) ++
  [{ transform := .wdeca, region := .spriteMask }, { transform := .wdecb, region := .spriteColor },
    { transform := .crepack, region := .spriteColor }]

/-- The ROM buffers after `DECRYPT_TITLE tk`; none where the module layer is refused (R141). -/
def decryptTitleRom (c : Cfg) (tk : TitleKeys) (rom : RomBank) : Option RomBank :=
  match moduleLayer c tk rom with
  | none => none
  | some rom' => some (spriteLayers c tk rom')

end Sys2Proof.Machine
end

