-- ==== Sys2Proof/Machine/HostBus.lean ====
section
/-! DEFINITION. Machine/HostBus.lean: the host transactions on the `ENCTAB`, `DECTRIG`, `SPRKEY`,
`BANKSEL`, `SHARE`, `RTC` and inert windows (41_decrypt_engine.md, 42_sprite_key.md,
43_share_ram.md, 45_dispatcher_rtc_card.md). -/

namespace Sys2Proof.Machine

/-- A read with no function: the fixed value, no effect (R148, R162, R178, R243). -/
def inertRead (width : Nat) (s : State) : Answer := .next (s.answer (inertData width))

/-- The body of `PROGDEC`: the program buffer through the cipher, with all 256 table bytes as they
are now and the title's substitution-table key (R150). -/
def programDecrypt (s : State) : State :=
  s.runPass .progdec .program
    (progCipher Config.cfg s.encTable s.title.subKey (s.rom.get .program))

/-- `ENCTAB.W k, v`: `ENCTAB[k] <- v` (R146). -/
def execEnctabW (k : Byte) (v : Byte) (s : State) : Answer := .next (s.setEncTab k.toNat v)

/-- `ENCTAB.R k`: returns the stored byte, no side effect (R147, D12). -/
def execEnctabR (k : Byte) (s : State) : Answer := .next (s.answer [s.encTabByte k.toNat])

/-- `DECTRIG.R`: an inert read (R148). -/
def execDectrigR (width : Nat) (s : State) : Answer := inertRead width s

/-- `DECTRIG.W v`: the first write decrypts the program ROM inside the transaction and sets
`DecryptFlag`; every later one does nothing; the value is ignored (R149). -/
def execDectrigW (_data : BusData) (s : State) : Answer :=
  if s.decryptFlag then .next s else .next { programDecrypt s with decryptFlag := true }

/-- `SPRKEY.W v`: stores `rawKey`, and recomputes `realKey` unless the title is predecrypted
(R161). -/
def execSprkeyW (v : Word) (s : State) : Answer :=
  if s.title.predecrypted then .next { s with rawKey := v }
  else .next { s with rawKey := v, realKey := reverse32 (v ^^^ Config.sprkeyMask) }

/-- `SPRKEY.R`: an inert read (R162). -/
def execSprkeyR (width : Nat) (s : State) : Answer := inertRead width s

/-- `BANKSEL.W v`: `ShareBank <- v[0]`; no byte of `SHARE` moves (R173). -/
def execBankselW (data : BusData) (s : State) : Answer := .next { s with shareBank := bankBit data }

/-- `BANKSEL.R`: an inert read (R178). -/
def execBankselR (width : Nat) (s : State) : Answer := inertRead width s

/-- `SHARE.R o`: the byte at Port A's index (R174). -/
def execShareR (o : BitVec 7) (s : State) : Answer := .next (s.answer [s.portARead o.toNat])

/-- `SHARE.W o, v`: stores at Port A's index (R175). -/
def execShareW (o : BitVec 7) (v : Byte) (s : State) : Answer := .next (s.portAWrite o.toNat v)

/-- The answer of the seconds counter to this read: a draw, not below any earlier answer of the run
(R245). -/
def rtcValue (s : State) : Word :=
  if (Config.rtcDraw s.draws).toNat < s.rtcLast.toNat then s.rtcLast else Config.rtcDraw s.draws

/-- `RTC.R`: returns the draw and remembers it for the law (R245). -/
def execRtcR (s : State) : Answer :=
  .next { s.answer (wordData (rtcValue s)) with rtcLast := rtcValue s, draws := s.draws + 1 }

/-- `RTC.W v`: ignored (R246). -/
def execRtcW (_data : BusData) (s : State) : Answer := .next s

/-- `INERT.R`: the fixed value (R243). -/
def execInertR (width : Nat) (s : State) : Answer := inertRead width s

/-- `INERT.W v`: ignored (R244). -/
def execInertW (_data : BusData) (s : State) : Answer := .next s

end Sys2Proof.Machine
end

