-- ==== Sys2Proof/Machine/Engine.lean ====
section
/-! DEFINITION. Machine/Engine.lean: the engine operations on the ROM buffers (40_bit_transforms.md
sections 3 to 5, 41_decrypt_engine.md section 1). -/

namespace Sys2Proof.Machine

/-- `WDECA r, key`: `wdec(WDEC_A, ROM[r], key)` (R120). -/
def execWdeca (r : Region) (key : Half) (s : State) : Answer :=
  .next (s.runPass .wdeca r (wdec Config.cfg.wdecA key (s.rom.get r)))

/-- `WDECB r, key`: `wdec(WDEC_B, ROM[r], key)` (R121). -/
def execWdecb (r : Region) (key : Half) (s : State) : Answer :=
  .next (s.runPass .wdecb r (wdec Config.cfg.wdecB key (s.rom.get r)))

/-- `CREPACK r`: every word through `PERM_COLOR` (R123). -/
def execCrepack (r : Region) (s : State) : Answer :=
  .next (s.runPass .crepack r (repack Config.cfg.permColor (s.rom.get r)))

/-- `MODXOR r, addrMask, dataMask` (R125); refused where a source index leaves the buffer (U2). -/
def execModxor (r : Region) (addrMask : Nat) (dataMask : Half) (s : State) : Answer :=
  match modXor addrMask dataMask (s.rom.get r) with
  | some words => .next (s.runPass .modxor r words)
  | none => .refused .moduleOutsideBuffer

/-- `DECRYPT_TITLE tk`: the three steps in order, then `bootDone` (R141). A second one is refused
(R143, U3), and so is the whole operation when its module layer is (U2). -/
def execDecryptTitle (tk : TitleKeys) (s : State) : Answer :=
  if s.bootDone then .refused .titleAlreadyDecrypted
  else
    match decryptTitleRom Config.cfg tk s.rom with
    | some rom =>
      .next { s with
        rom := rom, bootDone := true, passes := s.passes ++ titlePasses Config.cfg tk }
    | none => .refused .moduleOutsideBuffer

/-- `PROGDEC`: the body of the first trigger; sets no flag itself (R150). -/
def execProgdec (s : State) : Answer := .next (programDecrypt s)

end Sys2Proof.Machine
end

