-- ==== Sys2Proof/Machine/Events.lean ====
section
/-! DEFINITION. Machine/Events.lean: the two events (44_mcu_protocol.md R220, 60_exceptions.md
R264). -/

namespace Sys2Proof.Machine

/-- `TIMER.FIRE`: empties the event slot and raises `IRQ_MCU`; no register changes (R220). It is
enabled only while an event is pending. -/
def execTimerFire (s : State) : Answer :=
  match s.pendingEvent with
  | some _ => .next ({ s with pendingEvent := none }.raiseIrq .mcu)
  | none => .refused .timerNotArmed

/-- `FRAME.TICK`: raises `IRQ_FRAME` and touches no state of the block (R264). -/
def execFrameTick (s : State) : Answer := .next (s.raiseIrq .frame)

end Sys2Proof.Machine
end

