-- ==== Sys2Proof/Machine/Mcu.lean ====
section
/-! DEFINITION. Machine/Mcu.lean: the MCU register window, the command processor and its fourteen
command rules, the issue and the acknowledge (44_mcu_protocol.md). A command's meaning is all that
an issue of it does after the strobe value is stored (R200, R201). -/

namespace Sys2Proof.Machine

/-! ### The common part of every command (R200, R201) -/

/-- `lastCommand <- cmd`, before the command's own rule (R200, D23). -/
def State.beginCommand (s : State) (cmd : Byte) : State := { s with lastCommand := cmd }

/-- `result0 <- zext_32(cmd)` (R201). -/
def State.resultIsCommand (s : State) (cmd : Byte) : State := { s with result0 := cmd.setWidth 32 }

/-- The end of every command: the status pack, then the completion is armed (R200). -/
def State.finishCommand (s : State) (status : Byte) (delay : Nat) : State :=
  (s.setStatus status).arm delay .issue

/-- A command that only reports its own byte: accepted, default delay (R207, R213, R215, R217,
R221). -/
def plainCommand (cmd : Byte) (s : State) : Answer :=
  .next (((s.beginCommand cmd).resultIsCommand cmd).finishCommand Config.statusAccepted
    Config.delayDefault)

/-! ### The command rules (R202 to R221) -/

/-- `GETRES` (R202): the results go to the mailbox, `lastCommand` is cleared; the status pack then
replaces bits 23:16 of `REG[3]`. -/
def execGetres (_a : CmdArgs) (s : State) : Answer :=
  .next (({ (((s.beginCommand 0xF6#8).setReg 3 s.result0).setReg 4 s.result1) with
    lastCommand := 0#8 }).finishCommand Config.statusAccepted Config.delayDefault)

/-- `ECHO` (R203): both input registers become the results; delay 30. -/
def execEcho (_a : CmdArgs) (s : State) : Answer :=
  .next (({ s.beginCommand 0xE0#8 with result0 := s.reg 0, result1 := s.reg 1 }).finishCommand
    Config.statusAccepted Config.delayEcho)

/-- The shared-RAM effect of `SHFILL`: with sub-mode 2 the whole opposite bank is filled (R204,
R184); with any other nothing happens (R216). -/
def shfillRam (a : CmdArgs) (s : State) : State :=
  if a.arg2 = 2#8 then s.portBWriteList (List.replicate 128 a.arg3) else s

/-- `SHFILL` (R204, R216). -/
def execShfill (a : CmdArgs) (s : State) : Answer :=
  .next (({ (shfillRam a (s.beginCommand 0xE1#8)).resultIsCommand 0xE1#8 with
    result1 := 0#32 }).finishCommand Config.statusAccepted Config.delayDefault)

/-- `CCHECK` (R206): "no card" when the slot is empty. -/
def execCcheck (a : CmdArgs) (s : State) : Answer :=
  .next (((s.beginCommand 0xC0#8).resultIsCommand 0xC0#8).finishCommand
    (if s.cardPresent (cardSlot a) then Config.statusAccepted else Config.statusNoCard)
    Config.delayDefault)

/-- `CREADY` (R207): always ready. -/
def execCready (_a : CmdArgs) (s : State) : Answer := plainCommand 0xC1#8 s

/-- The bytes `CREAD` copies: the card's, at natural-number offsets `arg2 + i` (R208, R209). -/
def creadBytes (a : CmdArgs) (s : State) : List Byte :=
  (List.range (copyCount a)).map fun i => s.cardRead (cardSlot a) (cardOffset a + i)

/-- `CREAD` (R208): with a card, copies into the opposite bank from index 0; an empty slot is
silently skipped; more than 128 bytes with a card is refused (R209, U6). -/
def execCread (a : CmdArgs) (s : State) : Answer :=
  if s.cardPresent (cardSlot a) then
    if copyCount a ≤ 128 then
      .next ((((s.beginCommand 0xC2#8).portBWriteList (creadBytes a s)).tick.resultIsCommand
        0xC2#8).finishCommand Config.statusAccepted Config.delayDefault)
    else .refused .copyBeyondBank
  else plainCommand 0xC2#8 s

/-- The bytes `CWRITE` copies: the opposite bank's, from logical offset 0 (R210, D48). -/
def cwriteBytes (a : CmdArgs) (s : State) : List Byte :=
  (List.range (copyCount a)).map s.portBRead

/-- `CWRITE` (R210): with a card, copies from the opposite bank into the card at `arg2`; an empty
slot is silently skipped; more than 128 bytes with a card is refused (R209, U6). -/
def execCwrite (a : CmdArgs) (s : State) : Answer :=
  if s.cardPresent (cardSlot a) then
    if copyCount a ≤ 128 then
      .next ((((s.beginCommand 0xC3#8).cardWriteList (cardSlot a) (cardOffset a)
        (cwriteBytes a s)).resultIsCommand 0xC3#8).finishCommand Config.statusAccepted
        Config.delayDefault)
    else .refused .copyBeyondBank
  else plainCommand 0xC3#8 s

/-- `CSTUB4` (R213). -/
def execCstub4 (_a : CmdArgs) (s : State) : Answer := plainCommand 0xC4#8 s

/-- `CSTUB5` (R215). -/
def execCstub5 (_a : CmdArgs) (s : State) : Answer := plainCommand 0xC5#8 s

/-- `CSTUB6` (R217). -/
def execCstub6 (_a : CmdArgs) (s : State) : Answer := plainCommand 0xC6#8 s

/-- `CIDENT` (R211): the identity constant, with every slot empty too. -/
def execCident (_a : CmdArgs) (s : State) : Answer :=
  .next (({ (s.beginCommand 0xC7#8).resultIsCommand 0xC7#8 with
    result1 := Config.cardIdConst }).finishCommand Config.statusAccepted Config.delayDefault)

/-- `CWRBYTE` (R212): one byte into the card; `CardWrite` skips an empty slot. -/
def execCwrbyte (a : CmdArgs) (s : State) : Answer :=
  .next ((((s.beginCommand 0xC8#8).cardWrite (cardSlot a) (cardOffset a) a.arg3).resultIsCommand
    0xC8#8).finishCommand Config.statusAccepted Config.delayDefault)

/-- `CSTUB9` (R221). -/
def execCstub9 (_a : CmdArgs) (s : State) : Answer := plainCommand 0xC9#8 s

/-- `UNKNOWN` (R214): the error status and one log record; the results keep their values. -/
def execUnknown (cmd : Byte) (_a : CmdArgs) (s : State) : Answer :=
  .next (((s.beginCommand cmd).logUnknown (s.reg 0) (s.reg 1)).finishCommand Config.statusError
    Config.delayDefault)

/-- Runs the command word in `REG[0]`: the command byte alone selects the rule (R200, R83). -/
def runCommand (s : State) : Answer :=
  match cmdOp (byteOf (s.reg 0) 0) with
  | .getres => execGetres (argsOf (s.reg 0)) s
  | .echo => execEcho (argsOf (s.reg 0)) s
  | .shfill => execShfill (argsOf (s.reg 0)) s
  | .ccheck => execCcheck (argsOf (s.reg 0)) s
  | .cready => execCready (argsOf (s.reg 0)) s
  | .cread => execCread (argsOf (s.reg 0)) s
  | .cwrite => execCwrite (argsOf (s.reg 0)) s
  | .cstub4 => execCstub4 (argsOf (s.reg 0)) s
  | .cstub5 => execCstub5 (argsOf (s.reg 0)) s
  | .cstub6 => execCstub6 (argsOf (s.reg 0)) s
  | .cident => execCident (argsOf (s.reg 0)) s
  | .cwrbyte => execCwrbyte (argsOf (s.reg 0)) s
  | .cstub9 => execCstub9 (argsOf (s.reg 0)) s
  | .unknown cmd => execUnknown cmd (argsOf (s.reg 0)) s

/-! ### The register window -/

/-- Whether a read of `REG[idx]` falls in the window where the mailbox is not yet observable: a
completion is pending (R302, U8). -/
def mailboxUnsettled (s : State) (idx : Fin 8) : Bool :=
  (idx == 3 || idx == 4) && s.pendingEvent.isSome

/-- `MCUREG.R idx`: returns the stored value (R192); a mailbox read while a completion is pending
returns any value (R302, D34, U8). No side effect on the block. -/
def execMcuregR (idx : Fin 8) (s : State) : Answer :=
  if mailboxUnsettled s idx then .next (s.answer (wordData (Config.earlyMailbox s.draws))).tick
  else .next (s.answer (wordData (s.reg idx)))

/-- `MCUREG.W idx, v`: `REG[idx] <- v`, nothing else (R191). -/
def execMcuregW (idx : Fin 8) (v : Word) (s : State) : Answer := .next (s.setReg idx v)

/-- `MCU.ISSUE v`: the strobe value is stored; if it is not zero the command runs (R200). -/
def execMcuIssue (v : Word) (s : State) : Answer :=
  if v = 0#32 then .next (s.setReg 2 v) else runCommand (s.setReg 2 v)

/-- `MCU.ACK v`: the strobe value is stored; if it is not zero and a command is outstanding, the
"done" status is packed, the completion armed for 100 units, and `lastCommand` cleared (R218). -/
def execMcuAck (v : Word) (s : State) : Answer :=
  if v = 0#32 ∨ s.lastCommand = 0#8 then .next (s.setReg 5 v)
  else
    .next { (((s.setReg 5 v).setStatus Config.cfg.statusDone).arm Config.delayAck .ack) with
      lastCommand := 0#8 }

end Sys2Proof.Machine
end

