-- ==== Sys2Proof/Machine/Dispatch.lean ====
section
/-! DEFINITION. Machine/Dispatch.lean: one arm per operation of the opcode table. -/

namespace Sys2Proof.Machine

def exec (i : Instr) (s : State) : Host.Outcome State Fault Refusal :=
  match i with
  | .enctabW k v => Sys2Proof.Machine.execEnctabW k v s
  | .enctabR k => Sys2Proof.Machine.execEnctabR k s
  | .dectrigR width => Sys2Proof.Machine.execDectrigR width s
  | .dectrigW data => Sys2Proof.Machine.execDectrigW data s
  | .sprkeyW v => Sys2Proof.Machine.execSprkeyW v s
  | .sprkeyR width => Sys2Proof.Machine.execSprkeyR width s
  | .bankselW data => Sys2Proof.Machine.execBankselW data s
  | .bankselR width => Sys2Proof.Machine.execBankselR width s
  | .shareR o => Sys2Proof.Machine.execShareR o s
  | .shareW o v => Sys2Proof.Machine.execShareW o v s
  | .mcuregR idx => Sys2Proof.Machine.execMcuregR idx s
  | .mcuregW idx v => Sys2Proof.Machine.execMcuregW idx v s
  | .mcuIssue v => Sys2Proof.Machine.execMcuIssue v s
  | .mcuAck v => Sys2Proof.Machine.execMcuAck v s
  | .rtcR => Sys2Proof.Machine.execRtcR s
  | .rtcW data => Sys2Proof.Machine.execRtcW data s
  | .inertR width => Sys2Proof.Machine.execInertR width s
  | .inertW data => Sys2Proof.Machine.execInertW data s
  | .wdeca r key => Sys2Proof.Machine.execWdeca r key s
  | .wdecb r key => Sys2Proof.Machine.execWdecb r key s
  | .crepack r => Sys2Proof.Machine.execCrepack r s
  | .modxor r addrMask dataMask => Sys2Proof.Machine.execModxor r addrMask dataMask s
  | .decryptTitle tk => Sys2Proof.Machine.execDecryptTitle tk s
  | .progdec => Sys2Proof.Machine.execProgdec s
  | .getres a => Sys2Proof.Machine.execGetres a s
  | .echo a => Sys2Proof.Machine.execEcho a s
  | .shfill a => Sys2Proof.Machine.execShfill a s
  | .ccheck a => Sys2Proof.Machine.execCcheck a s
  | .cready a => Sys2Proof.Machine.execCready a s
  | .cread a => Sys2Proof.Machine.execCread a s
  | .cwrite a => Sys2Proof.Machine.execCwrite a s
  | .cstub4 a => Sys2Proof.Machine.execCstub4 a s
  | .cstub5 a => Sys2Proof.Machine.execCstub5 a s
  | .cstub6 a => Sys2Proof.Machine.execCstub6 a s
  | .cident a => Sys2Proof.Machine.execCident a s
  | .cwrbyte a => Sys2Proof.Machine.execCwrbyte a s
  | .cstub9 a => Sys2Proof.Machine.execCstub9 a s
  | .unknown cmd a => Sys2Proof.Machine.execUnknown cmd a s
  | .timerFire => Sys2Proof.Machine.execTimerFire s
  | .frameTick => Sys2Proof.Machine.execFrameTick s

end Sys2Proof.Machine
end

