-- ==== Sys2Proof/Machine/Inputs.lean ====
section
/-! DEFINITION. Machine/Inputs.lean: where the next operation comes from: the schedule, the Address
Dispatcher's routing of a host address, which agent is enabled when, the CARDS agent, the two
resets, and save and restore. -/

namespace Sys2Proof.Machine

/-! ### Routing (45_dispatcher_rtc_card.md R241, 20_memory.md R60) -/

/-- How many bytes one `MCU_REG_ADDR_UNIT` is. -/
def unitBytes (u : AddrUnit) : Nat :=
  match u with
  | .byte => 1
  | .word32 => 4

/-- The size of a window in bytes (R60); `INERT` is no window of its own. -/
def windowSize (u : AddrUnit) (w : Window) : Nat :=
  match w with
  | .enctab => 256
  | .dectrig | .sprkey | .banksel | .rtc => 4
  | .mcureg => 8 * 2 ^ 15 * unitBytes u
  | .share => 256
  | .inert => 0

/-- The seven windows the dispatcher routes to (R240). -/
def routedWindows : List Window := [.enctab, .dectrig, .sprkey, .banksel, .mcureg, .share, .rtc]

/-- Address `A` lies in window `w`: `BASE[w] <= A < BASE[w] + size(w)` (R241). -/
def inWindow (m : BusMap) (w : Window) (A : Nat) : Bool :=
  decide (m.base w ≤ A ∧ A < m.base w + windowSize m.regUnit w)

/-- The window-relative address: for `MCUREG` in its own unit (R85), else in bytes. -/
def windowOffset (m : BusMap) (w : Window) (A : Nat) : Nat :=
  match w with
  | .mcureg => (A - m.base w) / unitBytes m.regUnit
  | _ => A - m.base w

/-- The window and offset of a host address: `INERT` if no window holds it; none outside `RANGE`,
which never reaches the block (R241). -/
def routeAddress (m : BusMap) (A : Nat) : Option (Window × Nat) :=
  if m.rangeBase ≤ A ∧ A < m.rangeBase + m.rangeSize then
    match routedWindows.find? (fun w => inWindow m w A) with
    | some w => some (w, windowOffset m w A)
    | none => some (.inert, A - m.rangeBase)
  else none

/-! ### Which agent is enabled (00_scope.md R14, 10_state.md R37) -/

/-- Why an operation is not enabled when the schedule presents it, if it is not: the HOST runs only
after the boot step (R37, R293), the region transforms are run only through `DECRYPT_TITLE` (R110),
`PROGDEC` is never issued by name (R82), and the MCU acts only inside an issue (R200). The enabling
of `DECRYPT_TITLE` and `TIMER.FIRE` is part of their own rules. -/
def agentGuard (i : Instr) (s : State) : Option Refusal :=
  match i with
  | .progdec => some .progdecByName
  | .wdeca _ _ | .wdecb _ _ | .crepack _ | .modxor _ _ _ => some .transformByName
  | i =>
    match i.agent with
    | .host => if s.bootDone then none else some .hostBeforeBoot
    | .boot => none
    | .mcu => some .commandOutsideIssue
    | .timer => none
    | .frame => none

/-! ### The CARDS agent (45_dispatcher_rtc_card.md R249) -/

/-- A card goes into an empty slot. -/
def insertCard (slot : Fin 4) (image : List Byte) (s : State) : Answer :=
  if s.cardPresent slot then .refused .slotOccupied
  else .next { s with cards := s.cards.set slot (some image) }

/-- The card of a slot is taken out. -/
def removeCard (slot : Fin 4) (s : State) : Answer :=
  if s.cardPresent slot then .next { s with cards := s.cards.set slot none }
  else .refused .slotEmpty

/-! ### Reset (70_reset_and_hazards.md R290, R291; 10_state.md R41) -/

/-- A warm reset: the ROM buffers, the two flags that guard their passes and the record of the passes
are retained, what is outside the block is unaffected, everything else takes its cold value, with the
draws of the next reset number (R291, R41; what that means after a restore is log entry 21). -/
def warmReset (s : State) : State :=
  { State.reset with
    rom := s.rom
    decryptFlag := s.decryptFlag
    bootDone := s.bootDone
    passes := s.passes
    cards := s.cards
    title := s.title
    rtcLast := s.rtcLast
    events := s.events
    schedule := s.schedule
    epoch := s.epoch + 1
    draws := s.draws }

/-- A cold reset: a new run, with the loaded ROM buffers and the title's constants; the cards are
unaffected (R290, R41, R285). -/
def coldReset (rom : RomBank) (title : TitleKeys) (s : State) : State :=
  { State.reset with
    rom := rom
    title := title
    cards := s.cards
    schedule := s.schedule
    epoch := s.epoch + 1
    draws := s.draws }

/-- A cold reset from byte images: refused if one has no word view (20_memory.md R52, U15). -/
def coldResetImages (images : RomImages) (title : TitleKeys) (s : State) : Answer :=
  match loadImages Config.cfg.romWordOrder images with
  | some rom => .next (coldReset rom title s)
  | none => .refused .oddRomImage

/-! ### The schedule (00_scope.md R40) -/

/-- What the next step works on. -/
inductive Fetched where
  /-- Nothing is presented: the block does nothing. -/
  | idle (s : State)
  /-- An input from outside has acted, or was refused. -/
  | acted (a : Answer)
  /-- A packet for the decoder. -/
  | packet (p : Packet) (s : State)

/-- Takes the head of the schedule. -/
def fetch (s : State) : Fetched :=
  match s.schedule with
  | [] => .idle s
  | inp :: rest =>
    match inp with
    | .op p => .packet p { s with schedule := rest }
    | .bus addr access =>
      match routeAddress Config.cfg.busMap addr with
      | some (w, off) =>
        .packet (.hostbus { window := w, off := off, access := access }) { s with schedule := rest }
      | none => .idle { s with schedule := rest }
    | .insertCard slot image => .acted (insertCard slot image { s with schedule := rest })
    | .removeCard slot => .acted (removeCard slot { s with schedule := rest })
    | .warmReset => .acted (.next (warmReset { s with schedule := rest }))
    | .coldReset images title => .acted (coldResetImages images title { s with schedule := rest })

/-- Places the operation that a number of the opcode table stands for where the next step takes it
(log entry 2). A command word goes into `REG[0]`, with the issue strobe that runs it at the head of
the schedule; `REG[2]` already holds the strobe's value, so that the step is the command and
nothing more. Host operations need `bootDone` (R37). -/
def placeTableWord (s : State) (nbits w : Nat) : State :=
  match tablePacket nbits w with
  | some (.mcucmd cw) =>
    { (s.setReg 0 cw).setReg 2 1#32 with
      bootDone := true
      schedule := .op (encode (.mcuIssue 1#32)) :: s.schedule }
  | some p => { s with bootDone := true, schedule := .op p :: s.schedule }
  | none => s

/-! ### Save and restore (10_state.md R42) -/

/-- The set a save must carry (R42, D40); `encTab` and `share` go with the reset number that fixes
the draws of their unwritten cells. -/
structure SavedState where
  encTab : Memory
  decryptFlag : Bool
  bootDone : Bool
  share : Memory
  shareBank : BitVec 1
  regs : Vector Word 8
  rawKey : Word
  realKey : Word
  lastCommand : Byte
  result0 : Word
  result1 : Word
  pendingEvent : Option Completion
  epoch : Nat
  deriving DecidableEq, Repr

/-- Captures the save set (R42). -/
def State.save (s : State) : SavedState :=
  { encTab := s.encTab
    decryptFlag := s.decryptFlag
    bootDone := s.bootDone
    share := s.share
    shareBank := s.shareBank
    regs := s.regs
    rawKey := s.rawKey
    realKey := s.realKey
    lastCommand := s.lastCommand
    result0 := s.result0
    result1 := s.result1
    pendingEvent := s.pendingEvent
    epoch := s.epoch }

/-- Puts a captured set back; the ROM buffers, and with them the record of their passes, are restored by
whoever owns them (R42, R309). DESIGN CHOICE, unsafe (log entry 21): the reset number goes back to the
saved one, so the next reset has the number, and in unwritten cells of `ENCTAB` and `SHARE` the draws,
that the next reset after the capture had; the spec leaves each reset's draws arbitrary (R41). -/
def State.restore (s : State) (v : SavedState) : State :=
  { s with
    encTab := v.encTab
    decryptFlag := v.decryptFlag
    bootDone := v.bootDone
    share := v.share
    shareBank := v.shareBank
    regs := v.regs
    rawKey := v.rawKey
    realKey := v.realKey
    lastCommand := v.lastCommand
    result0 := v.result0
    result1 := v.result1
    pendingEvent := v.pendingEvent
    epoch := v.epoch }

end Sys2Proof.Machine
end

