-- ==== Sys2Proof/Machine/Step.lean ====
section
/-! DEFINITION. Machine/Step.lean: one step of the machine: the next input of the schedule acts, or
the operation it presents is decoded and, if its agent is enabled, runs. -/

namespace Sys2Proof.Machine

/-- Decodes a packet and runs its operation where its agent is enabled. -/
def runPacket (p : Packet) (s : State) : Host.Outcome State Fault Refusal :=
  match decode p with
  | .error e => .refused (.undecodable e)
  | .ok i =>
    match agentGuard i s with
    | some r => .refused r
    | none => exec i s

/-- One step on the one logical timeline (20_memory.md R63). With nothing scheduled the block does
nothing. -/
def step (s : State) : Host.Outcome State Fault Refusal :=
  match fetch s with
  | .idle t => .next t
  | .acted a => a
  | .packet p t => runPacket p t

/-- The state whose next step runs the operation that a number of the opcode table stands for. -/
def State.withFetchWord (s : State) (nbits w : Nat) : State := placeTableWord s nbits w

end Sys2Proof.Machine
end

