-- ==== Sys2Proof/Safety.lean ====
section
/-! DEFINITION. Safety.lean: what claims about runs are stated in: the invariants of 10_state.md R43,
the operation a state presents, the protocol discipline of 70_reset_and_hazards.md R302 and R303,
and the weak-fairness assumption of R305. -/

namespace Sys2Proof.Machine

/-- The delays that an event can be armed with (44_mcu_protocol.md R225): 1 or 30 units of `U_ISSUE`,
100 of `U_ACK`. -/
def legalCompletion (c : Completion) : Bool :=
  match c.unit with
  | .issue => c.count == Config.delayDefault || c.count == Config.delayEcho
  | .ack => c.count == Config.delayAck

/-- The invariants of 10_state.md R43 with the canonical form of the two byte memories. (I-a) is that
no pass is recorded twice, none before the boot step, and none of the program's cipher before the
trigger: the guards count the passes. (I-b) and (I-c) hold by the types of `pendingEvent` and
`shareBank`; of (I-b) what is left is that the event's delay is one that R225 lists. (I-d) is
`decrypted_after_boot`. -/
structure Inv (s : State) : Prop where
  one_pass : s.passes.Nodup
  no_pass_before_boot : s.bootDone = false → s.passes = []
  no_program_pass_before_trigger :
    s.decryptFlag = false → { transform := .progdec, region := .program } ∉ s.passes
  encTab_wf : Memory.wf s.encTab = true
  encTab_below : Memory.below 256 s.encTab = true
  share_wf : Memory.wf s.share = true
  share_below : Memory.below 256 s.share = true
  decrypted_after_boot : s.decryptFlag = true → s.bootDone = true
  pending_legal : ∀ c, s.pendingEvent = some c → legalCompletion c = true

/-- The operation that the next step decodes, if it decodes one. -/
def presented (s : State) : Option Instr :=
  match fetch s with
  | .packet p _ =>
    match decode p with
    | .ok i => some i
    | .error _ => none
  | _ => none

/-- The next input is a reset. -/
def resetNext (s : State) : Bool :=
  match s.schedule with
  | .warmReset :: _ => true
  | .coldReset _ _ :: _ => true
  | _ => false

/-- The next input is a cold reset. -/
def coldResetNext (s : State) : Bool :=
  match s.schedule with
  | .coldReset _ _ :: _ => true
  | _ => false

/-- The obligation R302 and R303 put on software: no issue while a command is outstanding or an event
pending, no acknowledge and no mailbox read before the completion interrupt. -/
def disciplined (s : State) : Bool :=
  match presented s with
  | some (.mcuIssue v) => v == 0#32 || (s.lastCommand == 0#8 && s.pendingEvent.isNone)
  | some (.mcuAck v) => v == 0#32 || s.pendingEvent.isNone
  | some (.mcuregR idx) => !(idx == 3 || idx == 4) || s.pendingEvent.isNone
  | _ => true

/-- The state after `n` steps; none if one of them is refused. -/
def runFor (n : Nat) (s : State) : Option State :=
  match n with
  | 0 => some s
  | n + 1 =>
    match step s with
    | .next t => runFor n t
    | .fault _ => none
    | .refused _ => none

/-- R305 (c), "it does fire eventually", as an assumption on the schedule: weak fairness of the TIMER
agent. Once the schedule is through, the block does nothing for ever, so the run is unfair exactly
when `TIMER.FIRE` is enabled there, that is, when an event is still pending. A schedule of which a
step is refused is no run. Claims that an interrupt comes take this as a hypothesis. -/
def weaklyFair (s : State) : Prop :=
  ∃ t, runFor s.schedule.length s = some t ∧ t.pendingEvent = none

end Sys2Proof.Machine
end

