-- ==== Sys2Proof/Certificates/Slice0/Obligations.lean ====
section
/-! DEFINITION. Certificates/Slice0/Obligations.lean: the statements for the provers. -/

namespace Sys2Proof.Claims

open Sys2Proof.Machine

/-! ### Frames: one word for each kind of state that stays as it was -/

/-- Every entry of `ENCTAB` reads as before. -/
def sameEncTab (s t : State) : Prop := ∀ k, t.encTabByte k = s.encTabByte k

/-- Every byte of `SHARE` reads as before. -/
def sameShare (s t : State) : Prop := ∀ p, t.shareByte p = s.shareByte p

/-- Every MCU register but those listed is as before. -/
def sameRegsBut (js : List (Fin 8)) (s t : State) : Prop := ∀ j, j ∉ js → t.reg j = s.reg j

/-- The engine's flags, the ROM buffers and the passes they have had are as before. -/
def sameEngine (s t : State) : Prop :=
  t.decryptFlag = s.decryptFlag ∧ t.bootDone = s.bootDone ∧ t.rom = s.rom ∧ t.passes = s.passes

/-- The sprite keys are as before. -/
def sameKeys (s t : State) : Prop := t.rawKey = s.rawKey ∧ t.realKey = s.realKey

/-- The protocol variables and the event slot are as before. -/
def sameProtocol (s t : State) : Prop :=
  t.lastCommand = s.lastCommand ∧ t.result0 = s.result0 ∧ t.result1 = s.result1 ∧
    t.pendingEvent = s.pendingEvent

/-- What no operation of the block writes: the title, the reset number, the rest of the schedule. -/
def sameRun (s t : State) : Prop :=
  t.title = s.title ∧ t.epoch = s.epoch ∧ t.schedule = s.schedule

/-- What lies outside the block, the clock's bookkeeping and the event history among it. -/
def sameOutside (s t : State) : Prop :=
  sameRun s t ∧ t.cards = s.cards ∧ t.rtcLast = s.rtcLast ∧ t.events = s.events

/-- Every element of the block and everything outside it is as before (the answer of a read and the
count of free values apart). -/
def sameBlock (s t : State) : Prop :=
  sameEncTab s t ∧ sameShare s t ∧ t.shareBank = s.shareBank ∧ sameRegsBut [] s t ∧
    sameEngine s t ∧ sameKeys s t ∧ sameProtocol s t ∧ sameOutside s t

/-- The bytes of a 32-bit value, byte 0 first (00_scope.md R9). -/
def bytes32 (v : Word) : List Byte :=
  [v.extractLsb' 0 8, v.extractLsb' 8 8, v.extractLsb' 16 8, v.extractLsb' 24 8]

/-- `REG[3]` after a status pack: bits 23:16 are the status, every other bit is as in `old`. -/
def packed (old new : Word) (status : Byte) : Prop :=
  new.extractLsb' 16 8 = status ∧
    ∀ p, p < 32 → (p < 16 ∨ 24 ≤ p) → new.getLsbD p = old.getLsbD p

/-- What every command but `GETRES` leaves: the status packed over the old `REG[3]`, the completion
armed, and everything that belongs to the host, the engine or the run as it was. -/
def commandEnd (status : Byte) (delay : Nat) (s t : State) : Prop :=
  packed (s.reg 3) (t.reg 3) status ∧ sameRegsBut [3] s t ∧
    t.pendingEvent = some { count := delay, unit := .issue } ∧
    sameEncTab s t ∧ t.shareBank = s.shareBank ∧ sameEngine s t ∧ sameKeys s t ∧ sameRun s t ∧
    t.rtcLast = s.rtcLast ∧ t.readData = s.readData

/-- The physical index of the MCU's byte at logical offset `o`: the bank that is not `ShareBank`. -/
def oppositeIndex (s : State) (o : Nat) : Nat := if s.shareBank = 0#1 then o + 128 else o

/-- The slot a card command addresses: `arg1 & 3`. -/
def slotOf (a : CmdArgs) : Fin 4 := ⟨(a.arg1 &&& 3#8).toNat % 4, Nat.mod_lt _ (by decide)⟩

/-- A `CREAD` or `CWRITE` that the spec leaves without meaning: more than 128 bytes with a card in
the slot (44_mcu_protocol.md R209). -/
def copyTooLong (a : CmdArgs) (s : State) : Prop := s.cards[slotOf a] ≠ none ∧ 128 < a.arg3.toNat

/-- The argument bytes of the command word in `REG[0]`. -/
def commandArgs (s : State) : CmdArgs :=
  { arg1 := (s.reg 0).extractLsb' 8 8
    arg2 := (s.reg 0).extractLsb' 16 8
    arg3 := (s.reg 0).extractLsb' 24 8 }

/-- The command byte in `REG[0]`. -/
def commandByte (s : State) : Byte := (s.reg 0).extractLsb' 0 8

/-- A source index of `MODXOR` leaves a buffer of `n` words (40_bit_transforms.md R125). -/
def leavesBuffer (addrMask n : Nat) : Prop := ∃ i, i < n ∧ n ≤ i ^^^ addrMask

/-- The module layer of `DECRYPT_TITLE` leaves the buffer it works on (R125, R141). -/
def moduleLeavesBuffer (tk : TitleKeys) (s : State) : Prop :=
  ∃ addrMask dataMask, tk.moduleLayer = some (addrMask, dataMask) ∧
    leavesBuffer addrMask (s.rom.get Config.cfg.moduleRegion).length

/-- The issue of `v` runs a copy of more than 128 bytes with a card in the slot (R200, R209). -/
def issuesTooLongCopy (v : Word) (s : State) : Prop :=
  v ≠ 0#32 ∧ (commandByte (s.setReg 2 v) = 0xC2#8 ∨ commandByte (s.setReg 2 v) = 0xC3#8) ∧
    copyTooLong (commandArgs (s.setReg 2 v)) s

/-- Where an operation's own rule gives it no meaning in a state, or does not enable it: R125, R141
with R143, R209 (and the issue that runs such a copy), R220. Which agents may act in which phase is
not part of it (log entry 14). -/
def specRefuses (i : Instr) (s : State) : Prop :=
  match i with
  | .modxor r addrMask _ => leavesBuffer addrMask (s.rom.get r).length
  | .decryptTitle tk => s.bootDone = true ∨ moduleLeavesBuffer tk s
  | .cread a => copyTooLong a s
  | .cwrite a => copyTooLong a s
  | .mcuIssue v => issuesTooLongCopy v s
  | .timerFire => s.pendingEvent = none
  | .enctabW _ _ | .enctabR _ | .dectrigR _ | .dectrigW _ | .sprkeyW _ | .sprkeyR _
  | .bankselW _ | .bankselR _ | .shareR _ | .shareW _ _ | .mcuregR _ | .mcuregW _ _
  | .mcuAck _ | .rtcR | .rtcW _ | .inertR _ | .inertW _ => False
  | .wdeca _ _ | .wdecb _ _ | .crepack _ | .progdec => False
  | .getres _ | .echo _ | .shfill _ | .ccheck _ | .cready _ | .cstub4 _ | .cstub5 _ | .cstub6 _
  | .cident _ | .cwrbyte _ | .cstub9 _ | .unknown _ _ => False
  | .frameTick => False

/-- The transactions that 20_memory.md R55 admits, with the offsets of R61 and R177 and the alignment
of decision D19 where a window has 4-byte accesses and ignores no low bits (R54, log entry 13). -/
def admitted (t : Txn) : Prop :=
  match t.window, t.access with
  | .enctab, .read width => width = 1 ∧ t.off < 256
  | .enctab, .write data => data.length = 1 ∧ t.off < 256
  | .share, .read width => width = 1 ∧ t.off < 128
  | .share, .write data => data.length = 1 ∧ t.off < 128
  | .mcureg, .read width => width = 4
  | .mcureg, .write data => data.length = 4
  | .sprkey, .write data => data.length = 4 ∧ t.off % 4 = 0
  | .rtc, .read width => width = 4 ∧ t.off % 4 = 0
  | _, .read width => 0 < width
  | _, .write data => 0 < data.length

/-- The operations by which the host reads. -/
def hostReads (i : Instr) : Bool :=
  match i with
  | .enctabR _ | .dectrigR _ | .sprkeyR _ | .bankselR _ | .shareR _ | .mcuregR _ | .rtcR
  | .inertR _ => true
  | _ => false

/-- Two states that agree on all the host has a window onto: the table, what Port A reads, the
registers, and the outside clock and free values. They may differ in `DecryptFlag`, the ROM buffers,
the sprite keys, the protocol variables, the pending completion, the bank selector, what Port B
reads, the cards. -/
def hostAgrees (s t : State) : Prop :=
  (∀ k, s.encTabByte k = t.encTabByte k) ∧
    (∀ o, o < 128 → s.portARead o = t.portARead o) ∧ (∀ j, s.reg j = t.reg j) ∧
    s.rtcLast = t.rtcLast ∧ s.draws = t.draws

/-- An address map as 20_memory.md R60 constrains it: the windows lie inside `RANGE`, pairwise
disjoint. -/
def legalMap (m : BusMap) : Prop :=
  (∀ w ∈ routedWindows,
    m.rangeBase ≤ m.base w ∧ m.base w + windowSize m.regUnit w ≤ m.rangeBase + m.rangeSize) ∧
  ∀ w ∈ routedWindows, ∀ w' ∈ routedWindows, w ≠ w' →
    m.base w + windowSize m.regUnit w ≤ m.base w' ∨ m.base w' + windowSize m.regUnit w' ≤ m.base w

end Sys2Proof.Claims

open Sys2Proof Sys2Proof.Machine Sys2Proof.Claims

/-! ### Decoding and encoding -/

/-- Decoding the packet written for a well-formed operation gives the operation back, with every
operand at every value the encoding admits (30_encoding.md sections 1 to 3). -/
def Obligations.DecodeOfEncodeIsTheOperation : Prop :=
  ∀ i : Instr, i.wellFormed = true → decode (encode i) = .ok i

/-- Every 32-bit command word is a well-formed command operation, and encoding that operation gives
the word back: no bit of a command word is dropped (30_encoding.md R83, R92). Which bits are byte 0
to byte 3 of the word is decision D1 (log entry 15). -/
def Obligations.EveryCommandWordIsOneCommand : Prop :=
  ∀ w : Word, ∃ i : Instr, decode (.mcucmd w) = .ok i ∧ i.wellFormed = true ∧
    i.format = .mcucmd ∧ encode i = .mcucmd w

/-- A host transaction has an operation exactly when its width is one that 20_memory.md R55 admits
for its window, its offset is one of the window's, and it is aligned where the window takes 4-byte
accesses and its rules ignore no low bits. The refusals are decisions D17 and D19. This is the
model's reading (log entry 13, DEDUCED): an access of no bytes has no operation; a 4-byte write of
`SPRKEY` or read of `RTC` off a multiple of 4 has none (U7); a 4-byte `MCUREG` access has one at
every offset, those off a multiple of 4 and those of `2^18` and above among them, because R54, R61
and R85 drop those bits; an access of any width to the other windows has one at every offset. -/
def Obligations.TransactionsDecodeExactlyAtAdmittedWidths : Prop :=
  ∀ t : Txn, (∃ i : Instr, decode (.hostbus t) = .ok i) ↔ admitted t

/-- `register index = (address >> 15) & 7`, for a read and for each kind of write (30_encoding.md
R85). -/
def Obligations.RegisterIndexIsAddressBits17To15 : Prop :=
  ∀ (a : Nat) (b0 b1 b2 b3 : Byte), ∃ idx : Fin 8, idx.val = (a >>> 15) &&& 7 ∧
    decode (readPacket .mcureg a 4) = .ok (.mcuregR idx) ∧
    (idx.val = 2 →
      decode (writePacket .mcureg a [b0, b1, b2, b3]) = .ok (.mcuIssue (b3 ++ b2 ++ b1 ++ b0))) ∧
    (idx.val = 5 →
      decode (writePacket .mcureg a [b0, b1, b2, b3]) = .ok (.mcuAck (b3 ++ b2 ++ b1 ++ b0))) ∧
    (idx.val ≠ 2 → idx.val ≠ 5 →
      decode (writePacket .mcureg a [b0, b1, b2, b3]) =
        .ok (.mcuregW idx (b3 ++ b2 ++ b1 ++ b0)))

/-- Packets written out from the spec's encodings decode to the operations they stand for. From
95_test_vectors.md: P2's writes of `BANKSEL`, `SHARE`, the issue and the acknowledge, its read of
`SHARE` and its command words for `SHFILL` and `GETRES`; P3's write of `REG[1]` and its word for
`ECHO`; P4's six command words `C0`, `C2`, `C3`, `C8`, `C1`, `C4`; vector V-M6's unknown command.
The table write of 0xA5 is R146's example and the command word 0x031002C3 is R210's. -/
def Obligations.SpecWordsDecode : Prop :=
  decode (.hostbus { window := .enctab, off := 16, access := .write [0xA5#8] })
      = .ok (.enctabW 16#8 0xA5#8) ∧
    decode (.hostbus { window := .banksel, off := 0, access := .write [1#8, 0#8, 0#8, 0#8] })
      = .ok (.bankselW [1#8, 0#8, 0#8, 0#8]) ∧
    decode (.hostbus { window := .share, off := 3, access := .write [0x13#8] })
      = .ok (.shareW 3#7 0x13#8) ∧
    decode (.hostbus { window := .share, off := 127, access := .read 1 }) = .ok (.shareR 127#7) ∧
    decode (.hostbus { window := .mcureg, off := 0x10000, access := .write [1#8, 0#8, 0#8, 0#8] })
      = .ok (.mcuIssue 1#32) ∧
    decode (.hostbus { window := .mcureg, off := 0x28000, access := .write [1#8, 0#8, 0#8, 0#8] })
      = .ok (.mcuAck 1#32) ∧
    decode (.hostbus { window := .mcureg, off := 0x08000,
                       access := .write [0xBE#8, 0xBA#8, 0xFE#8, 0xCA#8] })
      = .ok (.mcuregW 1 0xCAFEBABE#32) ∧
    decode (.mcucmd 0xAA0200E1#32) = .ok (.shfill { arg1 := 0#8, arg2 := 2#8, arg3 := 0xAA#8 }) ∧
    decode (.mcucmd 0x000000F6#32) = .ok (.getres { arg1 := 0#8, arg2 := 0#8, arg3 := 0#8 }) ∧
    decode (.mcucmd 0x112233E0#32)
      = .ok (.echo { arg1 := 0x33#8, arg2 := 0x22#8, arg3 := 0x11#8 }) ∧
    decode (.mcucmd 0x000001C0#32) = .ok (.ccheck { arg1 := 1#8, arg2 := 0#8, arg3 := 0#8 }) ∧
    decode (.mcucmd 0x040200C2#32) = .ok (.cread { arg1 := 0#8, arg2 := 2#8, arg3 := 4#8 }) ∧
    decode (.mcucmd 0x032000C3#32) = .ok (.cwrite { arg1 := 0#8, arg2 := 0x20#8, arg3 := 3#8 }) ∧
    decode (.mcucmd 0x5A3F00C8#32)
      = .ok (.cwrbyte { arg1 := 0#8, arg2 := 0x3F#8, arg3 := 0x5A#8 }) ∧
    decode (.mcucmd 0x000001C1#32) = .ok (.cready { arg1 := 1#8, arg2 := 0#8, arg3 := 0#8 }) ∧
    decode (.mcucmd 0x000000C4#32) = .ok (.cstub4 { arg1 := 0#8, arg2 := 0#8, arg3 := 0#8 }) ∧
    decode (.mcucmd 0x031002C3#32) = .ok (.cwrite { arg1 := 2#8, arg2 := 0x10#8, arg3 := 3#8 }) ∧
    decode (.mcucmd 0x000000FF#32)
      = .ok (.unknown 0xFF#8 { arg1 := 0#8, arg2 := 0#8, arg3 := 0#8 })

/-! ### The step -/

/-- When the schedule presents a packet that decodes to an operation whose agent is enabled, the
step is that operation on the state with the input taken off the schedule. -/
def Obligations.StepRunsTheDecodedOperation : Prop :=
  ∀ (s : State) (p : Packet) (rest : List Input) (i : Instr), s.schedule = .op p :: rest →
    decode p = .ok i → agentGuard i { s with schedule := rest } = none →
    step s = exec i { s with schedule := rest }

/-- A host access by address is the transaction the dispatcher routes it to; outside `RANGE` nothing
reaches the block (R241). That with nothing scheduled nothing happens is the model's choice (log
entry 1, DESIGN CHOICE). -/
def Obligations.StepRoutesHostAddresses : Prop :=
  (∀ (s : State) (addr : Nat) (access : Access) (rest : List Input),
    s.schedule = .bus addr access :: rest →
    step s =
      match routeAddress Config.cfg.busMap addr with
      | some (w, off) => step { s with
          schedule := .op (.hostbus { window := w, off := off, access := access }) :: rest }
      | none => .next { s with schedule := rest }) ∧
  ∀ s : State, s.schedule = [] → step s = .next s

/-- The dispatcher routes an address of a window to that window with the window-relative offset (for
`MCUREG` in its own unit), an address of `RANGE` in no window to `INERT`, and no other (R241). The
4-byte extent of the single-register windows in `windowSize` is decision D35, and that with a 32-bit
unit each of the four byte addresses of a unit goes to that unit, by floor division, is the model's
reading (log entry 24, DEDUCED). -/
def Obligations.DispatcherRoutesByAddressRange : Prop :=
  ∀ (m : BusMap) (A : Nat), legalMap m →
    (∀ w ∈ routedWindows, m.base w ≤ A → A < m.base w + windowSize m.regUnit w →
      routeAddress m A = some (w, if w = .mcureg then (A - m.base w) / unitBytes m.regUnit
        else A - m.base w)) ∧
    ((∀ w ∈ routedWindows, ¬(m.base w ≤ A ∧ A < m.base w + windowSize m.regUnit w)) →
      m.rangeBase ≤ A → A < m.rangeBase + m.rangeSize →
      ∃ off, routeAddress m A = some (.inert, off)) ∧
    (¬(m.rangeBase ≤ A ∧ A < m.rangeBase + m.rangeSize) → routeAddress m A = none)

/-- Which operations the schedule may present when: the host's once `bootDone`, the events and
`DECRYPT_TITLE` as their own rules say, a region transform, a command or `PROGDEC` never by itself
(R37, R82, R110, R200, R293; that the step refuses the others is the model's, log entry 14). -/
def Obligations.AgentsAreEnabledInTheirPhase : Prop :=
  ∀ (i : Instr) (s : State), agentGuard i s = none ↔
    (i.format = .event ∨ (i.format = .hostbus ∧ s.bootDone = true) ∨ ∃ tk, i = .decryptTitle tk)

/-- A nonzero write to `REG[2]` stores the strobe and runs the command that the word in `REG[0]`
decodes to (R200). -/
def Obligations.IssueRunsTheCommandInRegister0 : Prop :=
  ∀ (s : State) (v : Word) (i : Instr), v ≠ 0#32 → decode (.mcucmd (s.reg 0)) = .ok i →
    exec (.mcuIssue v) s = exec i (s.setReg 2 v)

/-! ### Whole-machine rules -/

/-- Every operation answers a next state in every state, but for the cases where its own rule gives it
no meaning or does not enable it: a `MODXOR` that leaves its buffer (also as the module layer of
`DECRYPT_TITLE`), a second `DECRYPT_TITLE`, a card copy of more than 128 bytes (also as the command
an issue runs), a `TIMER.FIRE` with no event pending. This is about `exec`, the operation's own
effect. Which agent may act in which phase is not its concern: `exec` has no guard for a host
operation before `bootDone` (R37) nor for a region transform, a command or `PROGDEC` presented by
itself (R110, R200, R82); the step refuses those (log entry 14, and
`AgentsAreEnabledInTheirPhase`). -/
def Obligations.OperationsCompleteUnlessTheSpecRefuses : Prop :=
  ∀ (i : Instr) (s : State), (∃ t, exec i s = .next t) ↔ ¬specRefuses i s

/-- Each of those cases is refused under its own name: a `MODXOR` that leaves its buffer, a second
`DECRYPT_TITLE`, a first one whose module layer leaves its buffer, a card copy of more than 128
bytes, an issue that runs such a copy, and a `TIMER.FIRE` with no event pending. -/
def Obligations.RefusalsCarryTheirName : Prop :=
  (∀ (s : State) (r : Region) (addrMask : Nat) (dataMask : Half),
    leavesBuffer addrMask (s.rom.get r).length →
    exec (.modxor r addrMask dataMask) s = .refused .moduleOutsideBuffer) ∧
  (∀ (s : State) (tk : TitleKeys), s.bootDone = true →
    exec (.decryptTitle tk) s = .refused .titleAlreadyDecrypted) ∧
  (∀ (s : State) (tk : TitleKeys), s.bootDone = false → moduleLeavesBuffer tk s →
    exec (.decryptTitle tk) s = .refused .moduleOutsideBuffer) ∧
  (∀ (s : State) (a : CmdArgs), copyTooLong a s →
    exec (.cread a) s = .refused .copyBeyondBank ∧
      exec (.cwrite a) s = .refused .copyBeyondBank) ∧
  (∀ (s : State) (v : Word), issuesTooLongCopy v s →
    exec (.mcuIssue v) s = .refused .copyBeyondBank) ∧
  ∀ s : State, s.pendingEvent = none → exec .timerFire s = .refused .timerNotArmed

/-- The invariants of 10_state.md R43, with the canonical form of the two byte memories, hold after
reset. The record of passes that (I-a) is stated of, and the canonical form, are the model's own (log
entries 25 and 4). -/
def Obligations.ResetStateMeetsTheInvariants : Prop := Inv State.reset

/-- Every step from a state with the invariants of 10_state.md R43 keeps them: no buffer has a pass of
one transform twice, none has one before the boot step, the program has none of its cipher before the
trigger (I-a), the two byte memories stay inside their 256 cells and in canonical form, the program
is decrypted only after the boot step, and a pending completion is one that R225 lists. The record of
passes and the canonical form are the model's own (log entries 25 and 4). -/
def Obligations.EveryStepKeepsTheInvariants : Prop :=
  ∀ s t : State, Inv s → step s = .next t → Inv t

/-- After the boot step and until a cold reset, the sprite and tile buffers never change, the program
buffer changes only in the step that sets `DecryptFlag`, and neither flag goes back (10_state.md
R22, R32, R37, R43): each buffer has at most one decryption pass. -/
def Obligations.RomBuffersHaveOnePassAfterBoot : Prop :=
  ∀ s t : State, s.bootDone = true → coldResetNext s = false → step s = .next t →
    t.bootDone = true ∧ t.rom.spriteMask = s.rom.spriteMask ∧
      t.rom.spriteColor = s.rom.spriteColor ∧ t.rom.tile = s.rom.tile ∧
      t.rom.program.length = s.rom.program.length ∧
      (s.decryptFlag = true → t.decryptFlag = true) ∧
      (t.rom.program ≠ s.rom.program → s.decryptFlag = false ∧ t.decryptFlag = true)

/-- `IRQ_MCU` is raised by `TIMER.FIRE` and by nothing else (60_exceptions.md R263): a step only
appends to the event history (a cold reset starts a new one), and an `IRQ_MCU` among what it appends
comes from a fire, with an event pending before it and none after. -/
def Obligations.OnlyTheTimerRaisesTheCompletionInterrupt : Prop :=
  ∀ s t : State, coldResetNext s = false → step s = .next t →
    ∃ new, t.events = s.events ++ new ∧
      (.irq .mcu ∈ new → presented s = some .timerFire ∧ new = [.irq .mcu] ∧
        s.pendingEvent ≠ none ∧ t.pendingEvent = none)

/-- "Cancellation: none" (R219): a step that is no reset leaves a pending completion pending (the same
or a new one in its place) or raises its interrupt; and software that keeps the discipline of
70_reset_and_hazards.md R302, R303 loses no interrupt: the completion stays as armed until it fires. -/
def Obligations.CompletionsAreReplacedOrFireButNeverCancelled : Prop :=
  (∀ s t : State, resetNext s = false → s.pendingEvent ≠ none → step s = .next t →
    t.pendingEvent ≠ none ∨ t.events = s.events ++ [.irq .mcu]) ∧
  ∀ (s t : State) (c : Completion), resetNext s = false → disciplined s = true →
    s.pendingEvent = some c → step s = .next t →
    t.pendingEvent = some c ∨ (t.pendingEvent = none ∧ t.events = s.events ++ [.irq .mcu])

/-- The host can learn nothing, by any read, of what it has no window onto (20_memory.md R62,
60_exceptions.md R280): two states that agree on the rest give the same answers. A mailbox read while
a completion is pending answers a free value (decision D34, log entry 7), so for the two mailbox
registers, and for them only, the states agree also on whether one is pending. That the free values
and the clock's bound agree stands for the outside being the same. -/
def Obligations.HostReadsRevealNoHiddenState : Prop :=
  ∀ (i : Instr) (s s' t t' : State), hostReads i = true → hostAgrees s s' →
    (∀ idx, i = .mcuregR idx → (idx = 3 ∨ idx = 4) →
      s.pendingEvent.isSome = s'.pendingEvent.isSome) →
    exec i s = .next t → exec i s' = .next t' → t.readData = t'.readData

/-- No command, and neither strobe, changes the bank selector or any byte of the host's own bank
(43_share_ram.md R172, R176). -/
def Obligations.CommandsNeverTouchTheHostsBank : Prop :=
  ∀ (i : Instr) (s t : State),
    (i.format = .mcucmd ∨ (∃ v, i = .mcuIssue v) ∨ ∃ v, i = .mcuAck v) → exec i s = .next t →
    t.shareBank = s.shareBank ∧ ∀ o, o < 128 → t.portARead o = s.portARead o

/-! ### Host transactions -/

/-- `ENCTAB.W k, v` stores the byte, leaves every other entry and everything else as it was, and
triggers nothing (R146). -/
def Obligations.TableWriteStoresOneEntry : Prop :=
  ∀ (s : State) (k v : Byte), ∃ t, exec (.enctabW k v) s = .next t ∧
    t.encTabByte k.toNat = v ∧ (∀ j, j ≠ k.toNat → t.encTabByte j = s.encTabByte j) ∧
    sameShare s t ∧ t.shareBank = s.shareBank ∧ sameRegsBut [] s t ∧ sameEngine s t ∧
    sameKeys s t ∧ sameProtocol s t ∧ sameOutside s t ∧ t.readData = s.readData

/-- A read of a table entry or of a byte of the shared RAM answers the stored byte (Port A's, at
`o + 128 * ShareBank`) and changes nothing (R147 with decision D12, R174). -/
def Obligations.ByteReadsAnswerTheStoredByte : Prop :=
  (∀ (s : State) (k : Byte), ∃ t, exec (.enctabR k) s = .next t ∧
    t.readData = some [s.encTabByte k.toNat] ∧ sameBlock s t) ∧
  ∀ (s : State) (o : BitVec 7), ∃ t, exec (.shareR o) s = .next t ∧
    t.readData = some [s.shareByte (o.toNat + 128 * s.shareBank.toNat)] ∧ sameBlock s t

/-- A read of `DECTRIG`, `SPRKEY`, `BANKSEL` or an inert address answers as many bytes as it asks
for, the low ones those of `INERT_READ_VALUE`, and changes nothing (R148, R162, R178, R243). That a
narrow read answers the low bytes of the constant, and that a read of more than four bytes answers as
many as it asks for, those past the fourth free, is the model's choice (log entry 12, DESIGN
CHOICE). -/
def Obligations.InertReadsAnswerTheFixedValue : Prop :=
  ∀ (s : State) (width : Nat) (i : Instr),
    (i = .dectrigR width ∨ i = .sprkeyR width ∨ i = .bankselR width ∨ i = .inertR width) →
    ∃ t data, exec i s = .next t ∧ t.readData = some data ∧ data.length = width ∧
      (∀ k, k < width → k < 4 →
        data[k]? = some (Config.cfg.inertReadValue.extractLsb' (8 * k) 8)) ∧
      sameBlock s t

/-- A write to an inert address is ignored, and a later read of it still answers the fixed value
(R244). -/
def Obligations.InertWritesAreIgnored : Prop :=
  ∀ (s : State) (data : BusData), ∃ t, exec (.inertW data) s = .next t ∧ sameBlock s t ∧
    t.readData = s.readData ∧
    ∃ u, exec (.inertR 4) t = .next u ∧
      u.readData = some (bytes32 Config.cfg.inertReadValue)

/-- `DECTRIG.W` (R149) and its body `PROGDEC` (R150). The first write replaces each word of the
program buffer by the cipher's (a function of the 256 table bytes as they are, the title's key and
the whole buffer), keeps its length, and sets `DecryptFlag`; every later write changes nothing,
whatever the value written. `PROGDEC` does the same to the buffer and sets no flag. That it all
happens inside the write is decision D14, and that the cipher depends on its three arguments only is
decision D9 (log entry 19). The pass is recorded in the model's own `passes` (log entry 25). -/
def Obligations.TriggerDecryptsTheProgramOnce : Prop :=
  (∀ (s : State) (data : BusData) (i : Instr), (i = .dectrigW data ∧ s.decryptFlag = false) ∨
      i = .progdec → ∃ t, exec i s = .next t ∧
    t.decryptFlag = (if i = .progdec then s.decryptFlag else true) ∧ t.bootDone = s.bootDone ∧
    t.rom.program.length = s.rom.program.length ∧
    (∀ j, j < s.rom.program.length → t.rom.program[j]? =
      some (Config.cfg.cipherWord ((List.range 256).map s.encTabByte) s.title.subKey
        s.rom.program j)) ∧
    t.rom.spriteMask = s.rom.spriteMask ∧ t.rom.spriteColor = s.rom.spriteColor ∧
    t.rom.tile = s.rom.tile ∧
    t.passes = s.passes ++ [{ transform := .progdec, region := .program }] ∧
    sameEncTab s t ∧ sameShare s t ∧ t.shareBank = s.shareBank ∧
    sameRegsBut [] s t ∧ sameKeys s t ∧ sameProtocol s t ∧ sameOutside s t) ∧
  ∀ (s : State) (data : BusData), s.decryptFlag = true →
    ∃ t, exec (.dectrigW data) s = .next t ∧ sameBlock s t

/-- "For all 256-byte encryption tables T and program-ROM buffers B, `triggerProgramDecrypt` applied
twice in succession yields the same buffer as applied once" (R153), and so it does if the table is
rewritten in between. -/
def Obligations.SecondTriggerLeavesTheProgramBuffer : Prop :=
  ∀ (s t : State) (data data' : BusData) (table : Memory), exec (.dectrigW data) s = .next t →
    ∃ u, exec (.dectrigW data') { t with encTab := table } = .next u ∧
      u.rom.program = t.rom.program

/-- `SPRKEY.W v` (R161, R164): the raw key is stored; if the title is not predecrypted, bit `p` of
the real key is bit `31 - p` of `v ^ 0x90055555`; if it is, the real key is unchanged. Nothing else
changes. -/
def Obligations.SpriteKeyWriteDerivesTheRealKey : Prop :=
  ∀ (s : State) (v : Word), ∃ t, exec (.sprkeyW v) s = .next t ∧ t.rawKey = v ∧
    (s.title.predecrypted = false →
      ∀ p, p < 32 → t.realKey.getLsbD p = (v ^^^ 0x90055555#32).getLsbD (31 - p)) ∧
    (s.title.predecrypted = true → t.realKey = s.realKey) ∧
    sameEncTab s t ∧ sameShare s t ∧ t.shareBank = s.shareBank ∧ sameRegsBut [] s t ∧
    sameEngine s t ∧ sameProtocol s t ∧ sameOutside s t ∧ t.readData = s.readData

/-- `BANKSEL.W v` (R173): the selector takes bit 0 of the value, no byte of `SHARE` moves, and when
the selector changes Port A reaches the bank Port B reached and the reverse. -/
def Obligations.BankSelectExchangesTheBanks : Prop :=
  ∀ (s : State) (b : Byte) (more : BusData), ∃ t, exec (.bankselW (b :: more)) s = .next t ∧
    t.shareBank = b.extractLsb' 0 1 ∧ sameShare s t ∧
    (t.shareBank ≠ s.shareBank → ∀ o, o < 128 →
      t.portARead o = s.portBRead o ∧ t.portBRead o = s.portARead o) ∧
    (t.shareBank = s.shareBank → ∀ o, o < 128 →
      t.portARead o = s.portARead o ∧ t.portBRead o = s.portBRead o) ∧
    sameEncTab s t ∧ sameRegsBut [] s t ∧ sameEngine s t ∧ sameKeys s t ∧ sameProtocol s t ∧
    sameOutside s t ∧ t.readData = s.readData

/-- `SHARE.W o, v` stores at physical index `o + 128 * ShareBank` and at no other, so never in the
other bank (R175). -/
def Obligations.ShareWriteStoresInTheHostsBank : Prop :=
  ∀ (s : State) (o : BitVec 7) (v : Byte), ∃ t, exec (.shareW o v) s = .next t ∧
    t.shareByte (o.toNat + 128 * s.shareBank.toNat) = v ∧
    (∀ p, p ≠ o.toNat + 128 * s.shareBank.toNat → t.shareByte p = s.shareByte p) ∧
    (∀ o', o' < 128 → t.portBRead o' = s.portBRead o') ∧
    t.shareBank = s.shareBank ∧ sameEncTab s t ∧ sameRegsBut [] s t ∧ sameEngine s t ∧
    sameKeys s t ∧ sameProtocol s t ∧ sameOutside s t ∧ t.readData = s.readData

/-- "For all bank selector values s, a write to ShareRAM by the main processor at logical offset o
lands at physical offset `o + (s&1)*128`; a concurrent write attributed to the MCU at the same
logical offset lands at `o + (~s&1)*128`; the two never alias" (R183, R176). -/
def Obligations.TheTwoPortsNeverAlias : Prop :=
  (∀ (s : State) (o : Nat) (v : Byte), o < 128 →
    (s.portAWrite o v).shareByte (o + (s.shareBank &&& 1#1).toNat * 128) = v ∧
    (∀ p, p ≠ o + (s.shareBank &&& 1#1).toNat * 128 →
      (s.portAWrite o v).shareByte p = s.shareByte p)) ∧
  (∀ (s : State) (vs : List Byte) (o : Nat) (v : Byte), vs.length ≤ 128 → vs[o]? = some v →
    (s.portBWriteList vs).shareByte (o + (~~~s.shareBank &&& 1#1).toNat * 128) = v) ∧
  ∀ (bank : BitVec 1) (oA oB : Nat), oA < 128 → oB < 128 →
    portAIndex bank oA ≠ portBIndex bank oB ∧ portAIndex bank oA < 256 ∧
      portBIndex bank oB < 256

/-- `RTC.R` answers a 32-bit value not below any answer of the run before it and changes nothing in
the block (R245); `RTC.W` is ignored (R246); and no step but a cold reset lowers the bound. The
value itself is free; the law is decision D38. -/
def Obligations.ClockAnswersNeverDecrease : Prop :=
  (∀ s : State, ∃ t v, exec .rtcR s = .next t ∧ t.readData = some (bytes32 v) ∧
    s.rtcLast.toNat ≤ v.toNat ∧ t.rtcLast = v ∧ sameEncTab s t ∧ sameShare s t ∧
    t.shareBank = s.shareBank ∧ sameRegsBut [] s t ∧ sameEngine s t ∧ sameKeys s t ∧
    sameProtocol s t ∧ sameRun s t ∧ t.cards = s.cards ∧ t.events = s.events) ∧
  (∀ (s : State) (data : BusData), ∃ t, exec (.rtcW data) s = .next t ∧ sameBlock s t) ∧
  ∀ s t : State, coldResetNext s = false → step s = .next t → s.rtcLast.toNat ≤ t.rtcLast.toNat

/-! ### The MCU register window -/

/-- `MCUREG.R idx` answers the stored register, but for a mailbox register while a completion is
pending, where it answers some 32-bit value that nothing constrains (R192, R302, decision D34); it
changes nothing. -/
def Obligations.RegisterReadAnswersTheRegister : Prop :=
  ∀ (s : State) (idx : Fin 8), ∃ t v, exec (.mcuregR idx) s = .next t ∧
    t.readData = some (bytes32 v) ∧ sameBlock s t ∧
    (¬((idx = 3 ∨ idx = 4) ∧ s.pendingEvent ≠ none) → v = s.reg idx)

/-- `MCUREG.W idx, v` to a register other than the strobes stores the value and does nothing else
(R191; decision D21 for the registers without a role). -/
def Obligations.RegisterWriteStoresTheRegister : Prop :=
  ∀ (s : State) (idx : Fin 8) (v : Word), idx ≠ 2 → idx ≠ 5 →
    ∃ t, exec (.mcuregW idx v) s = .next t ∧ t.reg idx = v ∧ sameRegsBut [idx] s t ∧
      sameEncTab s t ∧ sameShare s t ∧ t.shareBank = s.shareBank ∧ sameEngine s t ∧
      sameKeys s t ∧ sameProtocol s t ∧ sameOutside s t ∧ t.readData = s.readData

/-- `MCU.ISSUE v` (R200): zero stores and does nothing else; a nonzero value, with a command that the
spec gives a meaning, stores, sets `lastCommand` (`GETRES` clears it), packs the command's status and
arms its completion, 30 units for `ECHO` and 1 for any other. Decisions D22, D23, D24. -/
def Obligations.IssueStoresRunsPacksAndArms : Prop :=
  (∀ s : State, ∃ t, exec (.mcuIssue 0#32) s = .next t ∧ t.reg 2 = 0#32 ∧ sameRegsBut [2] s t ∧
    sameEncTab s t ∧ sameShare s t ∧ t.shareBank = s.shareBank ∧ sameEngine s t ∧ sameKeys s t ∧
    sameProtocol s t ∧ sameOutside s t) ∧
  ∀ (s : State) (v : Word), v ≠ 0#32 →
    ¬((commandByte s = 0xC2#8 ∨ commandByte s = 0xC3#8) ∧ copyTooLong (commandArgs s) s) →
    ∃ t, exec (.mcuIssue v) s = .next t ∧ t.reg 2 = v ∧
      t.lastCommand = (if commandByte s = 0xF6#8 then 0#8 else commandByte s) ∧
      (t.reg 3).extractLsb' 16 8 =
        (if listedCommands.contains (commandByte s) = true ∧
            ¬(commandByte s = 0xC0#8 ∧ s.cards[slotOf (commandArgs s)] = none)
          then 0xF7#8 else 0xF4#8) ∧
      t.pendingEvent =
        some { count := if commandByte s = 0xE0#8 then 30 else 1, unit := .issue } ∧
      sameRegsBut [2, 3, 4] s t ∧ (commandByte s ≠ 0xF6#8 → t.reg 4 = s.reg 4) ∧
      sameEncTab s t ∧ t.shareBank = s.shareBank ∧ sameEngine s t ∧ sameKeys s t ∧ sameRun s t

/-- `MCU.ACK v` (R218): the strobe is stored; with a nonzero value and a command outstanding the
"done" status is packed, the completion armed for 100 units of `U_ACK` and `lastCommand` cleared;
otherwise nothing else changes. Decisions D22, D31, D32. -/
def Obligations.AcknowledgeClosesTheCommand : Prop :=
  (∀ (s : State) (v : Word), v ≠ 0#32 → s.lastCommand ≠ 0#8 →
    ∃ t, exec (.mcuAck v) s = .next t ∧ t.reg 5 = v ∧
      packed (s.reg 3) (t.reg 3) Config.cfg.statusDone ∧ sameRegsBut [3, 5] s t ∧
      t.lastCommand = 0#8 ∧ t.pendingEvent = some { count := 100, unit := .ack } ∧
      t.result0 = s.result0 ∧ t.result1 = s.result1 ∧ sameEncTab s t ∧ sameShare s t ∧
      t.shareBank = s.shareBank ∧ sameEngine s t ∧ sameKeys s t ∧ sameOutside s t) ∧
  ∀ (s : State) (v : Word), (v = 0#32 ∨ s.lastCommand = 0#8) →
    ∃ t, exec (.mcuAck v) s = .next t ∧ t.reg 5 = v ∧ sameRegsBut [5] s t ∧ sameEncTab s t ∧
      sameShare s t ∧ t.shareBank = s.shareBank ∧ sameEngine s t ∧ sameKeys s t ∧
      sameProtocol s t ∧ sameOutside s t

/-! ### Commands -/

/-- `GETRES` (R202): `REG[4]` is `result1`, `REG[3]` is `result0` with the accepted status in bits
23:16, `lastCommand` is cleared, the results stay. Decision D30. -/
def Obligations.ResultFetchFillsTheMailbox : Prop :=
  ∀ (s : State) (a : CmdArgs), ∃ t, exec (.getres a) s = .next t ∧ t.reg 4 = s.result1 ∧
    packed s.result0 (t.reg 3) 0xF7#8 ∧ sameRegsBut [3, 4] s t ∧ t.lastCommand = 0#8 ∧
    t.result0 = s.result0 ∧ t.result1 = s.result1 ∧
    t.pendingEvent = some { count := 1, unit := .issue } ∧ sameEncTab s t ∧ sameShare s t ∧
    t.shareBank = s.shareBank ∧ sameEngine s t ∧ sameKeys s t ∧ sameOutside s t

/-- `ECHO` (R203): the results are the two input registers, and the completion is armed for 30 units.
Decision D46 says which registers. -/
def Obligations.EchoReturnsBothInputRegisters : Prop :=
  ∀ (s : State) (a : CmdArgs), ∃ t, exec (.echo a) s = .next t ∧ t.result0 = s.reg 0 ∧
    t.result1 = s.reg 1 ∧ t.lastCommand = 0xE0#8 ∧ commandEnd 0xF7#8 30 s t ∧ sameShare s t ∧
    t.cards = s.cards ∧ t.events = s.events

/-- `SHFILL` (R204, R216): with sub-mode 2 all 128 bytes of the opposite bank become the data byte and
no other byte changes; with any other sub-mode no byte changes; the results are `0xE1` and 0.
Decision D25 says which bytes are the sub-mode and the data, and decision D23 that `lastCommand`
becomes the command byte (log entry 17). -/
def Obligations.FillWritesTheWholeOppositeBank : Prop :=
  ∀ (s : State) (a : CmdArgs), ∃ t, exec (.shfill a) s = .next t ∧
    (a.arg2 = 2#8 → (∀ o, o < 128 → t.shareByte (oppositeIndex s o) = a.arg3) ∧
      ∀ p, (∀ o, o < 128 → p ≠ oppositeIndex s o) → t.shareByte p = s.shareByte p) ∧
    (a.arg2 ≠ 2#8 → sameShare s t) ∧ t.result0 = 0xE1#32 ∧ t.result1 = 0#32 ∧
    t.lastCommand = 0xE1#8 ∧ commandEnd 0xF7#8 1 s t ∧ t.cards = s.cards ∧ t.events = s.events

/-- `CCHECK` (R206): "no card" when the slot `arg1 & 3` is empty, else "accepted"; `result0 = 0xC0`,
`result1` unchanged; no card and no byte of the shared RAM is touched. That `lastCommand` becomes the
command byte is decision D23, and that an empty slot is the only failure decision D24 (log entry
17). -/
def Obligations.CardCheckReportsPresence : Prop :=
  ∀ (s : State) (a : CmdArgs), ∃ t, exec (.ccheck a) s = .next t ∧ t.result0 = 0xC0#32 ∧
    t.result1 = s.result1 ∧ t.lastCommand = 0xC0#8 ∧
    commandEnd (if s.cards[slotOf a] = none then 0xF4#8 else 0xF7#8) 1 s t ∧ sameShare s t ∧
    t.cards = s.cards ∧ t.events = s.events

/-- `CREADY` and the four stubs (R207, R213, R215, R217, R221): accepted, `result0` is the command
byte, `result1` unchanged, no card and no shared-RAM access. Decisions D24, D26. -/
def Obligations.ReadyAndStubsOnlyReportTheirByte : Prop :=
  ∀ (s : State) (a : CmdArgs) (i : Instr) (cmd : Byte),
    ((i = .cready a ∧ cmd = 0xC1#8) ∨ (i = .cstub4 a ∧ cmd = 0xC4#8) ∨
      (i = .cstub5 a ∧ cmd = 0xC5#8) ∨ (i = .cstub6 a ∧ cmd = 0xC6#8) ∨
      (i = .cstub9 a ∧ cmd = 0xC9#8)) →
    ∃ t, exec i s = .next t ∧ t.result0.toNat = cmd.toNat ∧ t.result1 = s.result1 ∧
      t.lastCommand = cmd ∧ commandEnd 0xF7#8 1 s t ∧ sameShare s t ∧ t.cards = s.cards ∧
      t.events = s.events

/-- `CIDENT` (R211): `result1` is the fixed identity constant and `result0 = 0xC7`, whatever the slots
hold. Decisions D23, D24. -/
def Obligations.IdentityIsTheFixedConstant : Prop :=
  ∀ (s : State) (a : CmdArgs), ∃ t, exec (.cident a) s = .next t ∧ t.result0 = 0x000000C7#32 ∧
    t.result1 = 0xF81F0000#32 ∧ t.lastCommand = 0xC7#8 ∧ commandEnd 0xF7#8 1 s t ∧ sameShare s t ∧
    t.cards = s.cards ∧ t.events = s.events

/-- `CREAD` (R208, R209): with a card in the slot and a count of at most 128, byte `i` of the opposite
bank becomes the card's byte at `arg2 + i` for every `i` below the count (where the card has one;
past its end the byte is free), and no other byte changes; with an empty slot no byte changes.
`result0 = 0xC2`, `result1` and the cards unchanged. Decisions D26, D27, D29; that `lastCommand`
becomes the command byte is decision D23 (log entry 17). -/
def Obligations.CardReadFillsTheOppositeBank : Prop :=
  ∀ (s : State) (a : CmdArgs), ¬copyTooLong a s → ∃ t, exec (.cread a) s = .next t ∧
    (∀ bytes, s.cards[slotOf a] = some bytes →
      (∀ i b, i < a.arg3.toNat → bytes[a.arg2.toNat + i]? = some b →
        t.shareByte (oppositeIndex s i) = b) ∧
      ∀ p, (∀ i, i < a.arg3.toNat → p ≠ oppositeIndex s i) → t.shareByte p = s.shareByte p) ∧
    (s.cards[slotOf a] = none → sameShare s t) ∧ t.result0 = 0xC2#32 ∧ t.result1 = s.result1 ∧
    t.lastCommand = 0xC2#8 ∧ commandEnd 0xF7#8 1 s t ∧ t.cards = s.cards ∧ t.events = s.events

/-- `CWRITE` (R210, R209): with a card that the span `arg2 .. arg2 + arg3 - 1` lies inside and a count
of at most 128, byte `arg2 + i` of the card becomes the opposite bank's byte `i` and every other byte
stays; with an empty slot nothing is written; no other slot changes, no slot is filled or emptied,
and the shared RAM is unchanged. Decisions D26, D27, D29, D48; that `lastCommand` becomes the command
byte is decision D23 (log entry 17). That a span past the card's end, too, leaves the card's length
and the other slots as they were is the model's choice (log entry 11, DESIGN CHOICE, unsafe): the
spec leaves it to the card. -/
def Obligations.CardWriteCopiesTheOppositeBank : Prop :=
  ∀ (s : State) (a : CmdArgs), ¬copyTooLong a s → ∃ t, exec (.cwrite a) s = .next t ∧
    (∀ bytes, s.cards[slotOf a] = some bytes → ∃ bytes', t.cards[slotOf a] = some bytes' ∧
      bytes'.length = bytes.length ∧
      (a.arg2.toNat + a.arg3.toNat ≤ bytes.length →
        (∀ i, i < a.arg3.toNat →
          bytes'[a.arg2.toNat + i]? = some (s.shareByte (oppositeIndex s i))) ∧
        ∀ j, (j < a.arg2.toNat ∨ a.arg2.toNat + a.arg3.toNat ≤ j) → bytes'[j]? = bytes[j]?)) ∧
    (∀ slot : Fin 4, (slot ≠ slotOf a ∨ s.cards[slotOf a] = none) → t.cards[slot] = s.cards[slot]) ∧
    sameShare s t ∧ t.result0 = 0xC3#32 ∧ t.result1 = s.result1 ∧ t.lastCommand = 0xC3#8 ∧
    commandEnd 0xF7#8 1 s t ∧ t.events = s.events

/-- `CWRBYTE` (R212): the byte `arg3` goes to card offset `arg2` and every other byte of the card
stays (where the offset is inside the card); with an empty slot nothing is written; the shared RAM is
neither read nor written. Decisions D26, D27; that `lastCommand` becomes the command byte is decision
D23 (log entry 17). That an offset past the card's end, too, leaves the card's length and the other
slots as they were is the model's choice (log entry 11, DESIGN CHOICE, unsafe): the spec leaves it to
the card. -/
def Obligations.CardByteWriteStoresOneByte : Prop :=
  ∀ (s : State) (a : CmdArgs), ∃ t, exec (.cwrbyte a) s = .next t ∧
    (∀ bytes, s.cards[slotOf a] = some bytes → ∃ bytes', t.cards[slotOf a] = some bytes' ∧
      bytes'.length = bytes.length ∧
      (a.arg2.toNat < bytes.length → bytes'[a.arg2.toNat]? = some a.arg3 ∧
        ∀ j, j ≠ a.arg2.toNat → bytes'[j]? = bytes[j]?)) ∧
    (∀ slot : Fin 4, (slot ≠ slotOf a ∨ s.cards[slotOf a] = none) → t.cards[slot] = s.cards[slot]) ∧
    sameShare s t ∧ t.result0 = 0xC8#32 ∧ t.result1 = s.result1 ∧ t.lastCommand = 0xC8#8 ∧
    commandEnd 0xF7#8 1 s t ∧ t.events = s.events

/-- `UNKNOWN` (R214): the status is the error code, the results are unchanged, exactly one log record
is appended (with `REG[0]` and `REG[1]`, decision D45), and `lastCommand` is the command byte. -/
def Obligations.UnknownCommandReportsAndLogs : Prop :=
  ∀ (s : State) (cmd : Byte) (a : CmdArgs), ∃ t, exec (.unknown cmd a) s = .next t ∧
    t.result0 = s.result0 ∧ t.result1 = s.result1 ∧ t.lastCommand = cmd ∧
    commandEnd 0xF4#8 1 s t ∧ t.events = s.events ++ [.unknownCommand (s.reg 0) (s.reg 1)] ∧
    sameShare s t ∧ t.cards = s.cards

/-! ### Events, cards, resets, save and restore -/

/-- `TIMER.FIRE` with an event pending empties the slot and raises `IRQ_MCU`; `FRAME.TICK` raises
`IRQ_FRAME`; neither changes a register or anything else (R220, R264; decisions D33, D36). -/
def Obligations.EventsOnlyRaiseTheirInterrupt : Prop :=
  (∀ s : State, s.pendingEvent ≠ none → ∃ t, exec .timerFire s = .next t ∧
    t.pendingEvent = none ∧ t.events = s.events ++ [.irq .mcu] ∧ t.lastCommand = s.lastCommand ∧
    t.result0 = s.result0 ∧ t.result1 = s.result1 ∧ sameEncTab s t ∧ sameShare s t ∧
    t.shareBank = s.shareBank ∧ sameRegsBut [] s t ∧ sameEngine s t ∧ sameKeys s t ∧
    sameRun s t ∧ t.cards = s.cards ∧ t.rtcLast = s.rtcLast ∧ t.readData = s.readData) ∧
  ∀ s : State, ∃ t, exec .frameTick s = .next t ∧ t.events = s.events ++ [.irq .frame] ∧
    sameEncTab s t ∧ sameShare s t ∧ t.shareBank = s.shareBank ∧ sameRegsBut [] s t ∧
    sameEngine s t ∧ sameKeys s t ∧ sameProtocol s t ∧ sameRun s t ∧ t.cards = s.cards ∧
    t.rtcLast = s.rtcLast ∧ t.readData = s.readData

/-- The CARDS agent (R249): a step puts a card into an empty slot or takes one out, and changes
nothing else of the machine. -/
def Obligations.CardsComeAndGoBetweenOperations : Prop :=
  (∀ (s : State) (slot : Fin 4) (image : List Byte) (rest : List Input),
    s.schedule = .insertCard slot image :: rest → s.cards[slot] = none →
    ∃ t, step s = .next t ∧ t.cards[slot] = some image ∧
      (∀ j : Fin 4, j ≠ slot → t.cards[j] = s.cards[j]) ∧ t.schedule = rest ∧
      t = { s with cards := t.cards, schedule := rest }) ∧
  ∀ (s : State) (slot : Fin 4) (rest : List Input),
    s.schedule = .removeCard slot :: rest → s.cards[slot] ≠ none →
    ∃ t, step s = .next t ∧ t.cards[slot] = none ∧
      (∀ j : Fin 4, j ≠ slot → t.cards[j] = s.cards[j]) ∧
      t = { s with cards := t.cards, schedule := rest }

/-- What a warm reset retains and what it sets (10_state.md R41, R291, decision D16): the ROM buffers
with the model's record of their passes (log entry 25), `DecryptFlag` and `bootDone` stay, the cards
stay, the registers take their cold values, and the
table and the shared RAM hold the draws of the next reset number (after a restore, a number that an
earlier reset may have had: the model's choice, log entry 21). -/
def Obligations.WarmResetRetainsTheBuffersAndTheirFlags : Prop :=
  ∀ (s : State) (rest : List Input), s.schedule = .warmReset :: rest →
    ∃ t, step s = .next t ∧ sameEngine s t ∧ t.cards = s.cards ∧ t.title = s.title ∧
      t.shareBank = 0#1 ∧ (∀ j, t.reg j = 0#32) ∧ t.rawKey = 0#32 ∧ t.realKey = 0#32 ∧
      t.lastCommand = 0#8 ∧ t.result0 = 0#32 ∧ t.result1 = 0#32 ∧ t.pendingEvent = none ∧
      (∀ k, t.encTabByte k = Config.encTabDraw (s.epoch + 1) k) ∧
      (∀ p, t.shareByte p = Config.shareDraw (s.epoch + 1) p) ∧ t.schedule = rest

/-- A cold reset with images of even length (10_state.md R41, R290, decisions D15, D16): both flags
false, the buffers hold the words of the images and have had no pass (log entry 25), the registers
their cold values, the cards stay;
word `i` of a buffer is bytes `2i` and `2i+1` in the order `ROM_WORD_ORDER` gives (20_memory.md
R52). -/
def Obligations.ColdResetLoadsTheImages : Prop :=
  ∀ (s : State) (images : RomImages) (title : TitleKeys) (rest : List Input),
    s.schedule = .coldReset images title :: rest → images.program.length % 2 = 0 →
    images.spriteMask.length % 2 = 0 → images.spriteColor.length % 2 = 0 →
    images.tile.length % 2 = 0 →
    ∃ t, step s = .next t ∧ t.decryptFlag = false ∧ t.bootDone = false ∧ t.passes = [] ∧
      wordsOfImage Config.cfg.romWordOrder images.program = some t.rom.program ∧
      wordsOfImage Config.cfg.romWordOrder images.spriteMask = some t.rom.spriteMask ∧
      wordsOfImage Config.cfg.romWordOrder images.spriteColor = some t.rom.spriteColor ∧
      wordsOfImage Config.cfg.romWordOrder images.tile = some t.rom.tile ∧ t.title = title ∧
      t.cards = s.cards ∧ t.shareBank = 0#1 ∧ (∀ j, t.reg j = 0#32) ∧ t.rawKey = 0#32 ∧
      t.realKey = 0#32 ∧ t.lastCommand = 0#8 ∧ t.result0 = 0#32 ∧ t.result1 = 0#32 ∧
      t.pendingEvent = none ∧ (∀ k, t.encTabByte k = Config.encTabDraw (s.epoch + 1) k) ∧
      (∀ p, t.shareByte p = Config.shareDraw (s.epoch + 1) p)

/-- The word view of a byte image (20_memory.md R52): it exists exactly for an even length, and word
`i` is bytes `2i` and `2i+1`, the low byte first with `little` and the high byte first with `big`. -/
def Obligations.ImageWordsFollowTheWordOrder : Prop :=
  (∀ (order : WordOrder) (image : List Byte),
    (wordsOfImage order image).isSome = true ↔ image.length % 2 = 0) ∧
  ∀ (order : WordOrder) (image : List Byte) (words : List Half),
    wordsOfImage order image = some words → 2 * words.length = image.length ∧
      ∀ i w, words[i]? = some w →
        image[2 * i]? = some (w.extractLsb' (if order = .little then 0 else 8) 8) ∧
        image[2 * i + 1]? = some (w.extractLsb' (if order = .little then 8 else 0) 8)

/-- The state after reset: the values 10_state.md R41 lists. `DecryptFlag` and `lastCommand` follow
from the source; the zeros are decision D15 (log entry 3); that before a loader has run the four
buffers are empty and have had no pass, and that the four card slots are empty, is the model's choice
(log entries 5, 25 and 11, DESIGN CHOICE); the table and the shared RAM hold draws (log entry 4). -/
def Obligations.ResetLeavesTheListedValues : Prop :=
  State.reset.decryptFlag = false ∧ State.reset.bootDone = false ∧ State.reset.shareBank = 0#1 ∧
    (∀ j, State.reset.reg j = 0#32) ∧ State.reset.rawKey = 0#32 ∧ State.reset.realKey = 0#32 ∧
    State.reset.lastCommand = 0#8 ∧ State.reset.result0 = 0#32 ∧ State.reset.result1 = 0#32 ∧
    State.reset.pendingEvent = none ∧
    (∀ k, State.reset.encTabByte k = Config.encTabDraw State.reset.epoch k) ∧
    (∀ p, State.reset.shareByte p = Config.shareDraw State.reset.epoch p) ∧
    (∀ r, State.reset.rom.get r = []) ∧ State.reset.passes = [] ∧
    ∀ slot : Fin 4, State.reset.cards[slot] = none

/-- A save and restore carries the set of 10_state.md R42 (with decision D40's additions): restored
into any state, every element of the set is as it was when saved, reads of unwritten table and
shared-RAM cells included, and the ROM buffers and the cards are not touched. Where whoever owns the
ROM buffers has put them back as well (R309), with the record of their passes (log entries 21, 25),
the restored state meets the invariants that the saved one met. -/
def Obligations.SaveAndRestoreCarryTheSaveSet : Prop :=
  ∀ s u : State, sameEncTab s (u.restore s.save) ∧ sameShare s (u.restore s.save) ∧
    (u.restore s.save).shareBank = s.shareBank ∧ sameRegsBut [] s (u.restore s.save) ∧
    (u.restore s.save).decryptFlag = s.decryptFlag ∧ (u.restore s.save).bootDone = s.bootDone ∧
    sameKeys s (u.restore s.save) ∧ sameProtocol s (u.restore s.save) ∧
    (u.restore s.save).rom = u.rom ∧ (u.restore s.save).cards = u.cards ∧
    (u.restore s.save).passes = u.passes ∧
    (Inv s → u.passes = s.passes → Inv (u.restore s.save))

/-! ### The Bit-Transform Library and the engine -/

/-- The laws of `permute16` for every permutation (R112): result bit `p` is source bit `P p` (R111), a
bijection that keeps the number of set bits, fixes the two constant words, distributes over
exclusive or, and has the inverse table's permutation as its inverse. That a table names for each
result bit its source bit, and not the other way round, is decision D7 (log entry 15, DESIGN
CHOICE). -/
def Obligations.PermutationKeepsBitsAndXor : Prop :=
  ∀ (P : Perm16) (a b : Half),
    (∀ p : Fin 16, (permute16 P a).getLsbD p.val = a.getLsbD (P p).val) ∧
    permute16 P (a ^^^ b) = permute16 P a ^^^ permute16 P b ∧
    permute16 P 0x0000#16 = 0x0000#16 ∧ permute16 P 0xFFFF#16 = 0xFFFF#16 ∧
    permute16 P.symm (permute16 P a) = a ∧
    (permute16 P a = permute16 P b → a = b) ∧
    (∑ p : Fin 16, ((permute16 P a).getLsbD p.val).toNat) = ∑ p : Fin 16, (a.getLsbD p.val).toNat

/-- `reverse32(v)`: "the result is 32 bits with `result[p] = v[31 - p]` for every `p` in 0..31"
(R118). -/
def Obligations.Reverse32MirrorsEveryBit : Prop :=
  (∀ (v : Word) (p : Nat), p < 32 → (reverse32 v).getLsbD p = v.getLsbD (31 - p)) ∧
    reverse32 0x90055555#32 = 0xAAAAA009#32

/-- The laws of `reverse32` (R119): an involution and so a bijection, distributing over exclusive or,
with the listed constants. -/
def Obligations.Reverse32IsAnInvolution : Prop :=
  (∀ v : Word, reverse32 (reverse32 v) = v) ∧
  (∀ v w : Word, reverse32 v = reverse32 w → v = w) ∧
  (∀ v w : Word, reverse32 (v ^^^ w) = reverse32 v ^^^ reverse32 w) ∧
  reverse32 0#32 = 0#32 ∧ reverse32 0xFFFFFFFF#32 = 0xFFFFFFFF#32 ∧
  reverse32 0x00000001#32 = 0x80000000#32

/-- The positional mask (R114): its bit `q` is the parity of the constants with that bit set among
the set bits 10:0 of the shifted index; it repeats every `2^(11 + shift)` words, is 0 where bits 10:0
of the shifted index are 0, and is shared by the two words of a pair when the shift is at least 1.
That the eleven bits are the low ones is decision D4. -/
def Obligations.PositionMaskRepeats : Prop :=
  ∀ (c : DecoderCfg) (i : Nat),
    (∀ q, q < 16 → ((posmask c i).getLsbD q).toNat =
      (∑ b : Fin 11, ((i / 2 ^ c.shift).testBit b.val && (c.xtab b).getLsbD q).toNat) % 2) ∧
    posmask c i = posmask c (i % 2 ^ (11 + c.shift)) ∧
    ((i / 2 ^ c.shift) % 2 ^ 11 = 0 → posmask c i = 0#16) ∧
    (1 ≤ c.shift → posmask c (2 * i) = posmask c (2 * i + 1))

/-- `WDECA` and `WDECB` (R117, R120, R121): the words whose index has the decoder's phase as parity
become the permuted exclusive or of word, positional mask and key, bit by bit; every other word, the
other buffers and everything else stay, and the pass is recorded in the model's own `passes` (log
entry 25). "plus" read as exclusive or is decision D3, the eleven low bits of the mask decision D4,
and the direction of the permutation, result bit `p` from source bit `perm p`, decision D7 (log entry
15, DESIGN CHOICE). -/
def Obligations.PositionalDecodersVisitOneParity : Prop :=
  ∀ (s : State) (r : Region) (key : Half) (i : Instr) (c : DecoderCfg) (tr : Transform),
    ((i = .wdeca r key ∧ c = Config.cfg.wdecA ∧ tr = .wdeca) ∨
      (i = .wdecb r key ∧ c = Config.cfg.wdecB ∧ tr = .wdecb)) →
    ∃ t, exec i s = .next t ∧ (t.rom.get r).length = (s.rom.get r).length ∧
      (∀ (j : Nat) (w : Half), (s.rom.get r)[j]? = some w → j % 2 ≠ c.phase.val →
        (t.rom.get r)[j]? = some w) ∧
      (∀ (j : Nat) (w : Half), (s.rom.get r)[j]? = some w → j % 2 = c.phase.val →
        ∃ w' : Half, (t.rom.get r)[j]? = some w' ∧
          ∀ p : Fin 16, w'.getLsbD p.val =
            (w ^^^ posmask c j ^^^ key).getLsbD (c.perm p).val) ∧
      (∀ r', r' ≠ r → t.rom.get r' = s.rom.get r') ∧ t.decryptFlag = s.decryptFlag ∧
      t.bootDone = s.bootDone ∧ t.passes = s.passes ++ [{ transform := tr, region := r }] ∧
      sameEncTab s t ∧ sameShare s t ∧ t.shareBank = s.shareBank ∧
      sameRegsBut [] s t ∧ sameKeys s t ∧ sameProtocol s t ∧ sameOutside s t

/-- `CREPACK r` (R123): every word of the buffer is permuted by `PERM_COLOR`, with no key and no index
dependence; the other buffers and everything else stay, and the pass is recorded in the model's own
`passes` (log entry 25). The direction in which `PERM_COLOR` is read, result bit `p` from source bit
`permColor p`, is decision D7 (log entry 15, DESIGN CHOICE). -/
def Obligations.ColourRepackPermutesEveryWord : Prop :=
  ∀ (s : State) (r : Region), ∃ t, exec (.crepack r) s = .next t ∧
    (t.rom.get r).length = (s.rom.get r).length ∧
    (∀ (j : Nat) (w : Half), (s.rom.get r)[j]? = some w → ∃ w' : Half, (t.rom.get r)[j]? = some w' ∧
      ∀ p : Fin 16, w'.getLsbD p.val = w.getLsbD (Config.cfg.permColor p).val) ∧
    (∀ r', r' ≠ r → t.rom.get r' = s.rom.get r') ∧ t.decryptFlag = s.decryptFlag ∧
    t.bootDone = s.bootDone ∧
    t.passes = s.passes ++ [{ transform := .crepack, region := r }] ∧ sameEncTab s t ∧
    sameShare s t ∧ t.shareBank = s.shareBank ∧ sameRegsBut [] s t ∧ sameKeys s t ∧
    sameProtocol s t ∧ sameOutside s t

/-- `MODXOR r, addrMask, dataMask` (R125): with every source index inside the buffer, word `i` becomes
the OLD word `i ^ addrMask`, exclusive or `dataMask`; done twice it restores the buffer; the other
buffers and everything else stay, and the pass is recorded in the model's own `passes` (log entry
25). That the source is the buffer as it was is decision D8 (log entry 15). No index leaves a buffer whose length is a multiple of a power of two above the mask. -/
def Obligations.ModuleXorPermutesTheBuffer : Prop :=
  (∀ addrMask n k : Nat, addrMask < 2 ^ k → n % 2 ^ k = 0 → ¬leavesBuffer addrMask n) ∧
  ∀ (s : State) (r : Region) (addrMask : Nat) (dataMask : Half),
    ¬leavesBuffer addrMask (s.rom.get r).length →
    ∃ t, exec (.modxor r addrMask dataMask) s = .next t ∧
      (t.rom.get r).length = (s.rom.get r).length ∧
      (∀ j, j < (s.rom.get r).length → ∃ w, (s.rom.get r)[j ^^^ addrMask]? = some w ∧
        (t.rom.get r)[j]? = some (w ^^^ dataMask)) ∧
      (∃ u, exec (.modxor r addrMask dataMask) t = .next u ∧ u.rom = s.rom) ∧
      (∀ r', r' ≠ r → t.rom.get r' = s.rom.get r') ∧ t.decryptFlag = s.decryptFlag ∧
      t.bootDone = s.bootDone ∧
      t.passes = s.passes ++ [{ transform := .modxor, region := r }] ∧ sameEncTab s t ∧
      sameShare s t ∧ t.shareBank = s.shareBank ∧ sameRegsBut [] s t ∧ sameKeys s t ∧
      sameProtocol s t ∧ sameOutside s t

/-- `DECRYPT_TITLE tk` before `bootDone` (R141): it is the optional `MODXOR` on the module region, then
`WDECA` on the sprite mask, `WDECB` and `CREPACK` on the sprite colour, run as the operations of
those names, and then `bootDone` is set. The pairing of decoders and regions is decision D6. -/
def Obligations.TitleDecryptIsItsStepsInOrder : Prop :=
  ∀ (s : State) (tk : TitleKeys), s.bootDone = false →
    (∀ addrMask dataMask, tk.moduleLayer = some (addrMask, dataMask) →
      ¬leavesBuffer addrMask (s.rom.get Config.cfg.moduleRegion).length) →
    ∃ s1 s2 s3 s4,
      (match tk.moduleLayer with
        | none => s1 = s
        | some (addrMask, dataMask) =>
          exec (.modxor Config.cfg.moduleRegion addrMask dataMask) s = .next s1) ∧
      exec (.wdeca .spriteMask tk.maskKey) s1 = .next s2 ∧
      exec (.wdecb .spriteColor tk.colorKey) s2 = .next s3 ∧
      exec (.crepack .spriteColor) s3 = .next s4 ∧
      exec (.decryptTitle tk) s = .next { s4 with bootDone := true }

/-- A title without a module layer leaves the program and tile buffers as they are, and with one only
the module region and the two sprite buffers may change (R141, R32); its passes are recorded in the
model's own `passes` (log entry 25). That `MODULE_REGION` is one of the four regions is decision D8
(log entry 15). -/
def Obligations.TitleDecryptLeavesOtherBuffers : Prop :=
  ∀ (s t : State) (tk : TitleKeys), exec (.decryptTitle tk) s = .next t →
    s.bootDone = false ∧ t.bootDone = true ∧ t.decryptFlag = s.decryptFlag ∧
    t.passes = s.passes ++ titlePasses Config.cfg tk ∧
    (∀ r, r ≠ .spriteMask → r ≠ .spriteColor →
      (tk.moduleLayer = none ∨ r ≠ Config.cfg.moduleRegion) → t.rom.get r = s.rom.get r) ∧
    (∀ r, (t.rom.get r).length = (s.rom.get r).length) ∧ sameEncTab s t ∧ sameShare s t ∧
    t.shareBank = s.shareBank ∧ sameRegsBut [] s t ∧ sameKeys s t ∧ sameProtocol s t ∧
    sameOutside s t
end

