-- ==== Sys2Proof/Laws/Decode.lean ====
section
/-! SUPPORT. Laws/Decode.lean: the byte and word round trips, the register index, and what a command
byte selects, each said once. -/

namespace Sys2Proof

theorem getLsbD_byteOf (v : Word) (k i : Nat) :
    (byteOf v k).getLsbD i = (decide (i < 8) && v.getLsbD (8 * k + i)) := by
  simp [byteOf]

/-- The bytes of an assembled word are the bytes it was assembled from. -/
theorem byteOf_wordOfBytes (b0 b1 b2 b3 : Byte) :
    byteOf (wordOfBytes b0 b1 b2 b3) 0 = b0 ∧ byteOf (wordOfBytes b0 b1 b2 b3) 1 = b1 ∧
      byteOf (wordOfBytes b0 b1 b2 b3) 2 = b2 ∧ byteOf (wordOfBytes b0 b1 b2 b3) 3 = b3 := by
  refine ⟨?_, ?_, ?_, ?_⟩ <;> apply BitVec.eq_of_getLsbD_eq <;> intro i hi <;>
    simp only [getLsbD_byteOf, wordOfBytes, BitVec.getLsbD_append, hi, decide_true, Bool.true_and]
  · simp [hi]
  · rw [if_neg (by omega), if_pos (by omega)]; congr 1; omega
  · rw [if_neg (by omega), if_neg (by omega), if_pos (by omega)]; congr 1; omega
  · rw [if_neg (by omega), if_neg (by omega), if_neg (by omega)]; congr 1; omega

/-- A word is assembled from its own bytes. -/
theorem wordOfBytes_byteOf (w : Word) :
    wordOfBytes (byteOf w 0) (byteOf w 1) (byteOf w 2) (byteOf w 3) = w := by
  apply BitVec.eq_of_getLsbD_eq
  intro i hi
  simp only [wordOfBytes, BitVec.getLsbD_append, getLsbD_byteOf]
  split_ifs
  · simp_all
  all_goals rw [decide_eq_true (by omega)]; simp; congr 1; omega

/-- A command word is assembled from its command byte and its argument bytes. -/
theorem commandWord_argsOf (w : Word) : commandWord (byteOf w 0) (argsOf w) = w :=
  wordOfBytes_byteOf w

theorem regIndex_regAddress (idx : Fin 8) : regIndex (regAddress idx) = idx := by
  revert idx; decide

/-- A listed command byte is one of thirteen. -/
theorem mem_listedCommands (c : Byte) : c ∈ listedCommands ↔
    c = 0xF6#8 ∨ c = 0xE0#8 ∨ c = 0xE1#8 ∨ c = 0xC0#8 ∨ c = 0xC1#8 ∨ c = 0xC2#8 ∨ c = 0xC3#8 ∨
      c = 0xC4#8 ∨ c = 0xC5#8 ∨ c = 0xC6#8 ∨ c = 0xC7#8 ∨ c = 0xC8#8 ∨ c = 0xC9#8 := by
  simp only [listedCommands, List.mem_cons, List.not_mem_nil, or_false]

/-- A byte that is not listed selects `UNKNOWN`. -/
theorem cmdOp_of_not_listed {c : Byte} (h : c ∉ listedCommands) : cmdOp c = .unknown c := by
  rw [mem_listedCommands] at h
  simp only [not_or] at h
  simp only [cmdOp, h, if_false]

/-- A listed byte selects a named command. -/
theorem cmdOp_of_listed {c : Byte} (h : c ∈ listedCommands) (d : Byte) : cmdOp c ≠ .unknown d := by
  rw [mem_listedCommands] at h
  rcases h with h | h | h | h | h | h | h | h | h | h | h | h | h <;> subst h <;> simp [cmdOp]

/-- The operation that a command byte selects: its encoding, its well-formedness, its format. -/
theorem cmdOp_toInstr (c : Byte) (a : CmdArgs) :
    encode ((cmdOp c).toInstr a) = .mcucmd (commandWord c a) ∧
      ((cmdOp c).toInstr a).wellFormed = true ∧ ((cmdOp c).toInstr a).format = .mcucmd := by
  by_cases h : c ∈ listedCommands
  · rw [mem_listedCommands] at h
    rcases h with h | h | h | h | h | h | h | h | h | h | h | h | h <;> subst h <;>
      exact ⟨rfl, rfl, rfl⟩
  · rw [cmdOp_of_not_listed h]
    refine ⟨rfl, ?_, rfl⟩
    simp only [CmdOp.toInstr, Instr.wellFormed, Bool.not_eq_true', List.contains_eq_mem,
      decide_eq_false_iff_not]
    exact h

/-- The command word of a byte and arguments decodes by that byte. -/
theorem decodeCommand_commandWord (c : Byte) (a : CmdArgs) :
    decodeCommand (commandWord c a) = (cmdOp c).toInstr a := by
  obtain ⟨h0, h1, h2, h3⟩ := byteOf_wordOfBytes c a.arg1 a.arg2 a.arg3
  simp only [decodeCommand, commandWord, argsOf, h0, h1, h2, h3]

end Sys2Proof
end

