-- ==== Sys2Proof/Laws/Memory.lean ====
section
/-! SUPPORT. Laws/Memory.lean: the laws of the byte memory: read after write, the canonical form, the
bound on addresses. -/

namespace Sys2Proof.Machine

@[simp] theorem Memory.read_nil (a : Nat) : Memory.read [] a = none := rfl

theorem Memory.read_cons (c : Host.Cell) (m : Memory) (a : Nat) :
    Memory.read (c :: m) a = if a = c.1 then some c.2 else Memory.read m a := rfl

/-- A write is seen at its own address and nowhere else. -/
theorem Memory.read_write (m : Memory) (a b : Nat) (v : Byte) :
    Memory.read (Memory.write m a v) b = if b = a then some v else Memory.read m b := by
  induction m with
  | nil => simp [Memory.write, Memory.read]
  | cons c m ih =>
    obtain ⟨d, w⟩ := c
    simp only [Memory.write]
    split
    · simp [Memory.read_cons]
    · split
      · simp only [Memory.read_cons]
        grind
      · simp only [Memory.read_cons, ih]
        grind

@[simp] theorem Memory.read_write_same (m : Memory) (a : Nat) (v : Byte) :
    Memory.read (Memory.write m a v) a = some v := by simp [Memory.read_write]

theorem Memory.read_write_other (m : Memory) {a b : Nat} (v : Byte) (h : b ≠ a) :
    Memory.read (Memory.write m a v) b = Memory.read m b := by simp [Memory.read_write, h]

/-- A run of writes is seen at `a .. a + length - 1` and nowhere else. -/
theorem Memory.read_writeList (vs : List Byte) (m : Memory) (a b : Nat) :
    Memory.read (Memory.writeList m a vs) b =
      if a ≤ b ∧ b < a + vs.length then vs[b - a]? else Memory.read m b := by
  induction vs generalizing m a with
  | nil => simp [Memory.writeList]
  | cons v vs ih =>
    simp only [Memory.writeList, ih, Memory.read_write, List.length_cons]
    by_cases hb : b = a
    · subst hb
      simp
    · by_cases hin : a + 1 ≤ b ∧ b < a + 1 + vs.length
      · obtain ⟨k, rfl⟩ := Nat.exists_eq_add_of_lt (show a < b by omega)
        have : a + k + 1 - a = k + 1 := by omega
        have : a + k + 1 - (a + 1) = k := by omega
        rw [if_pos hin, if_pos (by omega)]
        simp [*]
      · rw [if_neg hin, if_neg hb, if_neg (by omega)]

theorem Memory.above_iff (a : Nat) (m : Memory) :
    Memory.above a m = true ↔ ∀ c ∈ m, a < c.1 := by simp [Memory.above]

theorem Memory.below_iff (n : Nat) (m : Memory) :
    Memory.below n m = true ↔ ∀ c ∈ m, c.1 < n := by simp [Memory.below]

/-- What a write lists: the new cell and cells that were there. -/
theorem Memory.mem_write {m : Memory} {a : Nat} {v : Byte} {c : Host.Cell}
    (h : c ∈ Memory.write m a v) : c = (a, v) ∨ c ∈ m := by
  induction m with
  | nil => simpa [Memory.write] using h
  | cons d m ih =>
    obtain ⟨b, w⟩ := d
    simp only [Memory.write] at h
    split at h
    · simpa using h
    · split at h <;> grind

/-- A write keeps the canonical form. -/
theorem Memory.wf_write {m : Memory} (a : Nat) (v : Byte) (h : Memory.wf m = true) :
    Memory.wf (Memory.write m a v) = true := by
  induction m with
  | nil => rfl
  | cons d m ih =>
    obtain ⟨b, w⟩ := d
    simp only [Memory.wf, Bool.and_eq_true, Memory.above_iff] at h
    simp only [Memory.write]
    split
    · simp only [Memory.wf, Bool.and_eq_true, Memory.above_iff]
      grind
    · split
      · simp only [Memory.wf, Bool.and_eq_true, Memory.above_iff]
        grind
      · simp only [Memory.wf, Bool.and_eq_true, Memory.above_iff]
        refine ⟨fun c hc => ?_, ih h.2⟩
        rcases Memory.mem_write hc with rfl | hc
        · simp only; omega
        · exact h.1 c hc

theorem Memory.below_write {m : Memory} {n a : Nat} (v : Byte) (ha : a < n)
    (h : Memory.below n m = true) : Memory.below n (Memory.write m a v) = true := by
  rw [Memory.below_iff] at h ⊢
  intro c hc
  rcases Memory.mem_write hc with rfl | hc
  · exact ha
  · exact h c hc

/-- A run of writes keeps the canonical form. -/
theorem Memory.wf_writeList (vs : List Byte) {m : Memory} (a : Nat) (h : Memory.wf m = true) :
    Memory.wf (Memory.writeList m a vs) = true := by
  induction vs generalizing m a with
  | nil => exact h
  | cons v vs ih => exact ih _ (Memory.wf_write a v h)

theorem Memory.below_writeList (vs : List Byte) {m : Memory} {n a : Nat} (ha : a + vs.length ≤ n)
    (h : Memory.below n m = true) : Memory.below n (Memory.writeList m a vs) = true := by
  induction vs generalizing m a with
  | nil => exact h
  | cons v vs ih =>
    simp only [List.length_cons] at ha
    exact ih (by omega) (Memory.below_write v (by omega) h)

/-- Equal memories are equal data: two canonical memories that read alike are equal. -/
theorem Memory.eq_of_read {m m' : Memory} (h : Memory.wf m = true) (h' : Memory.wf m' = true)
    (hr : ∀ a, Memory.read m a = Memory.read m' a) : m = m' := by
  have absent : ∀ (n : Memory) (a : Nat), (∀ c ∈ n, a < c.1) → Memory.read n a = none := by
    intro n a hn
    induction n with
    | nil => rfl
    | cons c n ih =>
      rw [Memory.read_cons, if_neg (by have := hn c (by simp); omega)]
      exact ih fun d hd => hn d (by simp [hd])
  induction m generalizing m' with
  | nil =>
    cases m' with
    | nil => rfl
    | cons c m' => have := hr c.1; simp [Memory.read_cons] at this
  | cons c m ih =>
    cases m' with
    | nil => have := hr c.1; simp [Memory.read_cons] at this
    | cons c' m' =>
      obtain ⟨a, v⟩ := c
      obtain ⟨a', v'⟩ := c'
      simp only [Memory.wf, Bool.and_eq_true, Memory.above_iff] at h h'
      have haa : a = a' := by
        rcases Nat.lt_trichotomy a a' with hlt | heq | hgt
        · have := hr a
          rw [Memory.read_cons, if_pos rfl, absent ((a', v') :: m') a (by grind)] at this
          simp at this
        · exact heq
        · have := hr a'
          rw [Memory.read_cons (a', v'), if_pos rfl, absent ((a, v) :: m) a' (by grind)] at this
          simp at this
      subst haa
      have hv := hr a
      simp only [Memory.read_cons, if_true, Option.some.injEq] at hv
      subst hv
      congr 1
      refine ih h.2 h'.2 fun b => ?_
      by_cases hb : b = a
      · subst hb
        rw [absent m b h.1, absent m' b h'.1]
      · have := hr b
        simpa [Memory.read_cons, hb] using this

end Sys2Proof.Machine
end

