-- ==== Sys2Proof/Laws/State.lean ====
section
/-! SUPPORT. Laws/State.lean: one lemma per field per update, so that no later proof unfolds a record
update. -/

namespace Sys2Proof.Machine

/-! ### `setReg` -/

@[simp] theorem setReg_encTab (s : State) (i : Fin 8) (v : Word) :
    (s.setReg i v).encTab = s.encTab := rfl
@[simp] theorem setReg_decryptFlag (s : State) (i : Fin 8) (v : Word) :
    (s.setReg i v).decryptFlag = s.decryptFlag := rfl
@[simp] theorem setReg_bootDone (s : State) (i : Fin 8) (v : Word) :
    (s.setReg i v).bootDone = s.bootDone := rfl
@[simp] theorem setReg_rom (s : State) (i : Fin 8) (v : Word) : (s.setReg i v).rom = s.rom := rfl
@[simp] theorem setReg_share (s : State) (i : Fin 8) (v : Word) :
    (s.setReg i v).share = s.share := rfl
@[simp] theorem setReg_shareBank (s : State) (i : Fin 8) (v : Word) :
    (s.setReg i v).shareBank = s.shareBank := rfl
@[simp] theorem setReg_regs (s : State) (i : Fin 8) (v : Word) :
    (s.setReg i v).regs = s.regs.set i v := rfl
@[simp] theorem setReg_rawKey (s : State) (i : Fin 8) (v : Word) :
    (s.setReg i v).rawKey = s.rawKey := rfl
@[simp] theorem setReg_realKey (s : State) (i : Fin 8) (v : Word) :
    (s.setReg i v).realKey = s.realKey := rfl
@[simp] theorem setReg_lastCommand (s : State) (i : Fin 8) (v : Word) :
    (s.setReg i v).lastCommand = s.lastCommand := rfl
@[simp] theorem setReg_result0 (s : State) (i : Fin 8) (v : Word) :
    (s.setReg i v).result0 = s.result0 := rfl
@[simp] theorem setReg_result1 (s : State) (i : Fin 8) (v : Word) :
    (s.setReg i v).result1 = s.result1 := rfl
@[simp] theorem setReg_pendingEvent (s : State) (i : Fin 8) (v : Word) :
    (s.setReg i v).pendingEvent = s.pendingEvent := rfl
@[simp] theorem setReg_cards (s : State) (i : Fin 8) (v : Word) :
    (s.setReg i v).cards = s.cards := rfl
@[simp] theorem setReg_title (s : State) (i : Fin 8) (v : Word) :
    (s.setReg i v).title = s.title := rfl
@[simp] theorem setReg_rtcLast (s : State) (i : Fin 8) (v : Word) :
    (s.setReg i v).rtcLast = s.rtcLast := rfl
@[simp] theorem setReg_passes (s : State) (i : Fin 8) (v : Word) :
    (s.setReg i v).passes = s.passes := rfl
@[simp] theorem setReg_readData (s : State) (i : Fin 8) (v : Word) :
    (s.setReg i v).readData = s.readData := rfl
@[simp] theorem setReg_events (s : State) (i : Fin 8) (v : Word) :
    (s.setReg i v).events = s.events := rfl
@[simp] theorem setReg_schedule (s : State) (i : Fin 8) (v : Word) :
    (s.setReg i v).schedule = s.schedule := rfl
@[simp] theorem setReg_epoch (s : State) (i : Fin 8) (v : Word) :
    (s.setReg i v).epoch = s.epoch := rfl
@[simp] theorem setReg_draws (s : State) (i : Fin 8) (v : Word) :
    (s.setReg i v).draws = s.draws := rfl

/-! ### `setStatus` -/

@[simp] theorem setStatus_encTab (s : State) (st : Byte) : (s.setStatus st).encTab = s.encTab := rfl
@[simp] theorem setStatus_decryptFlag (s : State) (st : Byte) :
    (s.setStatus st).decryptFlag = s.decryptFlag := rfl
@[simp] theorem setStatus_bootDone (s : State) (st : Byte) :
    (s.setStatus st).bootDone = s.bootDone := rfl
@[simp] theorem setStatus_rom (s : State) (st : Byte) : (s.setStatus st).rom = s.rom := rfl
@[simp] theorem setStatus_share (s : State) (st : Byte) : (s.setStatus st).share = s.share := rfl
@[simp] theorem setStatus_shareBank (s : State) (st : Byte) :
    (s.setStatus st).shareBank = s.shareBank := rfl
@[simp] theorem setStatus_regs (s : State) (st : Byte) :
    (s.setStatus st).regs = s.regs.set 3 (packStatus (s.reg 3) st) := rfl
@[simp] theorem setStatus_rawKey (s : State) (st : Byte) : (s.setStatus st).rawKey = s.rawKey := rfl
@[simp] theorem setStatus_realKey (s : State) (st : Byte) :
    (s.setStatus st).realKey = s.realKey := rfl
@[simp] theorem setStatus_lastCommand (s : State) (st : Byte) :
    (s.setStatus st).lastCommand = s.lastCommand := rfl
@[simp] theorem setStatus_result0 (s : State) (st : Byte) :
    (s.setStatus st).result0 = s.result0 := rfl
@[simp] theorem setStatus_result1 (s : State) (st : Byte) :
    (s.setStatus st).result1 = s.result1 := rfl
@[simp] theorem setStatus_pendingEvent (s : State) (st : Byte) :
    (s.setStatus st).pendingEvent = s.pendingEvent := rfl
@[simp] theorem setStatus_cards (s : State) (st : Byte) : (s.setStatus st).cards = s.cards := rfl
@[simp] theorem setStatus_title (s : State) (st : Byte) : (s.setStatus st).title = s.title := rfl
@[simp] theorem setStatus_rtcLast (s : State) (st : Byte) :
    (s.setStatus st).rtcLast = s.rtcLast := rfl
@[simp] theorem setStatus_passes (s : State) (st : Byte) : (s.setStatus st).passes = s.passes := rfl
@[simp] theorem setStatus_readData (s : State) (st : Byte) :
    (s.setStatus st).readData = s.readData := rfl
@[simp] theorem setStatus_events (s : State) (st : Byte) : (s.setStatus st).events = s.events := rfl
@[simp] theorem setStatus_schedule (s : State) (st : Byte) :
    (s.setStatus st).schedule = s.schedule := rfl
@[simp] theorem setStatus_epoch (s : State) (st : Byte) : (s.setStatus st).epoch = s.epoch := rfl
@[simp] theorem setStatus_draws (s : State) (st : Byte) : (s.setStatus st).draws = s.draws := rfl

/-! ### `setEncTab` -/

@[simp] theorem setEncTab_encTab (s : State) (k : Nat) (v : Byte) :
    (s.setEncTab k v).encTab = Memory.write s.encTab k v := rfl
@[simp] theorem setEncTab_decryptFlag (s : State) (k : Nat) (v : Byte) :
    (s.setEncTab k v).decryptFlag = s.decryptFlag := rfl
@[simp] theorem setEncTab_bootDone (s : State) (k : Nat) (v : Byte) :
    (s.setEncTab k v).bootDone = s.bootDone := rfl
@[simp] theorem setEncTab_rom (s : State) (k : Nat) (v : Byte) :
    (s.setEncTab k v).rom = s.rom := rfl
@[simp] theorem setEncTab_share (s : State) (k : Nat) (v : Byte) :
    (s.setEncTab k v).share = s.share := rfl
@[simp] theorem setEncTab_shareBank (s : State) (k : Nat) (v : Byte) :
    (s.setEncTab k v).shareBank = s.shareBank := rfl
@[simp] theorem setEncTab_regs (s : State) (k : Nat) (v : Byte) :
    (s.setEncTab k v).regs = s.regs := rfl
@[simp] theorem setEncTab_rawKey (s : State) (k : Nat) (v : Byte) :
    (s.setEncTab k v).rawKey = s.rawKey := rfl
@[simp] theorem setEncTab_realKey (s : State) (k : Nat) (v : Byte) :
    (s.setEncTab k v).realKey = s.realKey := rfl
@[simp] theorem setEncTab_lastCommand (s : State) (k : Nat) (v : Byte) :
    (s.setEncTab k v).lastCommand = s.lastCommand := rfl
@[simp] theorem setEncTab_result0 (s : State) (k : Nat) (v : Byte) :
    (s.setEncTab k v).result0 = s.result0 := rfl
@[simp] theorem setEncTab_result1 (s : State) (k : Nat) (v : Byte) :
    (s.setEncTab k v).result1 = s.result1 := rfl
@[simp] theorem setEncTab_pendingEvent (s : State) (k : Nat) (v : Byte) :
    (s.setEncTab k v).pendingEvent = s.pendingEvent := rfl
@[simp] theorem setEncTab_cards (s : State) (k : Nat) (v : Byte) :
    (s.setEncTab k v).cards = s.cards := rfl
@[simp] theorem setEncTab_title (s : State) (k : Nat) (v : Byte) :
    (s.setEncTab k v).title = s.title := rfl
@[simp] theorem setEncTab_rtcLast (s : State) (k : Nat) (v : Byte) :
    (s.setEncTab k v).rtcLast = s.rtcLast := rfl
@[simp] theorem setEncTab_passes (s : State) (k : Nat) (v : Byte) :
    (s.setEncTab k v).passes = s.passes := rfl
@[simp] theorem setEncTab_readData (s : State) (k : Nat) (v : Byte) :
    (s.setEncTab k v).readData = s.readData := rfl
@[simp] theorem setEncTab_events (s : State) (k : Nat) (v : Byte) :
    (s.setEncTab k v).events = s.events := rfl
@[simp] theorem setEncTab_schedule (s : State) (k : Nat) (v : Byte) :
    (s.setEncTab k v).schedule = s.schedule := rfl
@[simp] theorem setEncTab_epoch (s : State) (k : Nat) (v : Byte) :
    (s.setEncTab k v).epoch = s.epoch := rfl
@[simp] theorem setEncTab_draws (s : State) (k : Nat) (v : Byte) :
    (s.setEncTab k v).draws = s.draws := rfl

/-! ### `portAWrite` -/

@[simp] theorem portAWrite_encTab (s : State) (o : Nat) (v : Byte) :
    (s.portAWrite o v).encTab = s.encTab := rfl
@[simp] theorem portAWrite_decryptFlag (s : State) (o : Nat) (v : Byte) :
    (s.portAWrite o v).decryptFlag = s.decryptFlag := rfl
@[simp] theorem portAWrite_bootDone (s : State) (o : Nat) (v : Byte) :
    (s.portAWrite o v).bootDone = s.bootDone := rfl
@[simp] theorem portAWrite_rom (s : State) (o : Nat) (v : Byte) :
    (s.portAWrite o v).rom = s.rom := rfl
@[simp] theorem portAWrite_share (s : State) (o : Nat) (v : Byte) :
    (s.portAWrite o v).share = Memory.write s.share (portAIndex s.shareBank o) v := rfl
@[simp] theorem portAWrite_shareBank (s : State) (o : Nat) (v : Byte) :
    (s.portAWrite o v).shareBank = s.shareBank := rfl
@[simp] theorem portAWrite_regs (s : State) (o : Nat) (v : Byte) :
    (s.portAWrite o v).regs = s.regs := rfl
@[simp] theorem portAWrite_rawKey (s : State) (o : Nat) (v : Byte) :
    (s.portAWrite o v).rawKey = s.rawKey := rfl
@[simp] theorem portAWrite_realKey (s : State) (o : Nat) (v : Byte) :
    (s.portAWrite o v).realKey = s.realKey := rfl
@[simp] theorem portAWrite_lastCommand (s : State) (o : Nat) (v : Byte) :
    (s.portAWrite o v).lastCommand = s.lastCommand := rfl
@[simp] theorem portAWrite_result0 (s : State) (o : Nat) (v : Byte) :
    (s.portAWrite o v).result0 = s.result0 := rfl
@[simp] theorem portAWrite_result1 (s : State) (o : Nat) (v : Byte) :
    (s.portAWrite o v).result1 = s.result1 := rfl
@[simp] theorem portAWrite_pendingEvent (s : State) (o : Nat) (v : Byte) :
    (s.portAWrite o v).pendingEvent = s.pendingEvent := rfl
@[simp] theorem portAWrite_cards (s : State) (o : Nat) (v : Byte) :
    (s.portAWrite o v).cards = s.cards := rfl
@[simp] theorem portAWrite_title (s : State) (o : Nat) (v : Byte) :
    (s.portAWrite o v).title = s.title := rfl
@[simp] theorem portAWrite_rtcLast (s : State) (o : Nat) (v : Byte) :
    (s.portAWrite o v).rtcLast = s.rtcLast := rfl
@[simp] theorem portAWrite_passes (s : State) (o : Nat) (v : Byte) :
    (s.portAWrite o v).passes = s.passes := rfl
@[simp] theorem portAWrite_readData (s : State) (o : Nat) (v : Byte) :
    (s.portAWrite o v).readData = s.readData := rfl
@[simp] theorem portAWrite_events (s : State) (o : Nat) (v : Byte) :
    (s.portAWrite o v).events = s.events := rfl
@[simp] theorem portAWrite_schedule (s : State) (o : Nat) (v : Byte) :
    (s.portAWrite o v).schedule = s.schedule := rfl
@[simp] theorem portAWrite_epoch (s : State) (o : Nat) (v : Byte) :
    (s.portAWrite o v).epoch = s.epoch := rfl
@[simp] theorem portAWrite_draws (s : State) (o : Nat) (v : Byte) :
    (s.portAWrite o v).draws = s.draws := rfl

/-! ### `portBWriteList` -/

@[simp] theorem portBWriteList_encTab (s : State) (vs : List Byte) :
    (s.portBWriteList vs).encTab = s.encTab := rfl
@[simp] theorem portBWriteList_decryptFlag (s : State) (vs : List Byte) :
    (s.portBWriteList vs).decryptFlag = s.decryptFlag := rfl
@[simp] theorem portBWriteList_bootDone (s : State) (vs : List Byte) :
    (s.portBWriteList vs).bootDone = s.bootDone := rfl
@[simp] theorem portBWriteList_rom (s : State) (vs : List Byte) :
    (s.portBWriteList vs).rom = s.rom := rfl
@[simp] theorem portBWriteList_share (s : State) (vs : List Byte) :
    (s.portBWriteList vs).share = Memory.writeList s.share (portBIndex s.shareBank 0) vs := rfl
@[simp] theorem portBWriteList_shareBank (s : State) (vs : List Byte) :
    (s.portBWriteList vs).shareBank = s.shareBank := rfl
@[simp] theorem portBWriteList_regs (s : State) (vs : List Byte) :
    (s.portBWriteList vs).regs = s.regs := rfl
@[simp] theorem portBWriteList_rawKey (s : State) (vs : List Byte) :
    (s.portBWriteList vs).rawKey = s.rawKey := rfl
@[simp] theorem portBWriteList_realKey (s : State) (vs : List Byte) :
    (s.portBWriteList vs).realKey = s.realKey := rfl
@[simp] theorem portBWriteList_lastCommand (s : State) (vs : List Byte) :
    (s.portBWriteList vs).lastCommand = s.lastCommand := rfl
@[simp] theorem portBWriteList_result0 (s : State) (vs : List Byte) :
    (s.portBWriteList vs).result0 = s.result0 := rfl
@[simp] theorem portBWriteList_result1 (s : State) (vs : List Byte) :
    (s.portBWriteList vs).result1 = s.result1 := rfl
@[simp] theorem portBWriteList_pendingEvent (s : State) (vs : List Byte) :
    (s.portBWriteList vs).pendingEvent = s.pendingEvent := rfl
@[simp] theorem portBWriteList_cards (s : State) (vs : List Byte) :
    (s.portBWriteList vs).cards = s.cards := rfl
@[simp] theorem portBWriteList_title (s : State) (vs : List Byte) :
    (s.portBWriteList vs).title = s.title := rfl
@[simp] theorem portBWriteList_rtcLast (s : State) (vs : List Byte) :
    (s.portBWriteList vs).rtcLast = s.rtcLast := rfl
@[simp] theorem portBWriteList_passes (s : State) (vs : List Byte) :
    (s.portBWriteList vs).passes = s.passes := rfl
@[simp] theorem portBWriteList_readData (s : State) (vs : List Byte) :
    (s.portBWriteList vs).readData = s.readData := rfl
@[simp] theorem portBWriteList_events (s : State) (vs : List Byte) :
    (s.portBWriteList vs).events = s.events := rfl
@[simp] theorem portBWriteList_schedule (s : State) (vs : List Byte) :
    (s.portBWriteList vs).schedule = s.schedule := rfl
@[simp] theorem portBWriteList_epoch (s : State) (vs : List Byte) :
    (s.portBWriteList vs).epoch = s.epoch := rfl
@[simp] theorem portBWriteList_draws (s : State) (vs : List Byte) :
    (s.portBWriteList vs).draws = s.draws := rfl

/-! ### `runPass` -/

@[simp] theorem runPass_encTab (s : State) (t : Transform) (r : Region) (ws : List Half) :
    (s.runPass t r ws).encTab = s.encTab := rfl
@[simp] theorem runPass_decryptFlag (s : State) (t : Transform) (r : Region) (ws : List Half) :
    (s.runPass t r ws).decryptFlag = s.decryptFlag := rfl
@[simp] theorem runPass_bootDone (s : State) (t : Transform) (r : Region) (ws : List Half) :
    (s.runPass t r ws).bootDone = s.bootDone := rfl
@[simp] theorem runPass_rom (s : State) (t : Transform) (r : Region) (ws : List Half) :
    (s.runPass t r ws).rom = s.rom.set r ws := rfl
@[simp] theorem runPass_share (s : State) (t : Transform) (r : Region) (ws : List Half) :
    (s.runPass t r ws).share = s.share := rfl
@[simp] theorem runPass_shareBank (s : State) (t : Transform) (r : Region) (ws : List Half) :
    (s.runPass t r ws).shareBank = s.shareBank := rfl
@[simp] theorem runPass_regs (s : State) (t : Transform) (r : Region) (ws : List Half) :
    (s.runPass t r ws).regs = s.regs := rfl
@[simp] theorem runPass_rawKey (s : State) (t : Transform) (r : Region) (ws : List Half) :
    (s.runPass t r ws).rawKey = s.rawKey := rfl
@[simp] theorem runPass_realKey (s : State) (t : Transform) (r : Region) (ws : List Half) :
    (s.runPass t r ws).realKey = s.realKey := rfl
@[simp] theorem runPass_lastCommand (s : State) (t : Transform) (r : Region) (ws : List Half) :
    (s.runPass t r ws).lastCommand = s.lastCommand := rfl
@[simp] theorem runPass_result0 (s : State) (t : Transform) (r : Region) (ws : List Half) :
    (s.runPass t r ws).result0 = s.result0 := rfl
@[simp] theorem runPass_result1 (s : State) (t : Transform) (r : Region) (ws : List Half) :
    (s.runPass t r ws).result1 = s.result1 := rfl
@[simp] theorem runPass_pendingEvent (s : State) (t : Transform) (r : Region) (ws : List Half) :
    (s.runPass t r ws).pendingEvent = s.pendingEvent := rfl
@[simp] theorem runPass_cards (s : State) (t : Transform) (r : Region) (ws : List Half) :
    (s.runPass t r ws).cards = s.cards := rfl
@[simp] theorem runPass_title (s : State) (t : Transform) (r : Region) (ws : List Half) :
    (s.runPass t r ws).title = s.title := rfl
@[simp] theorem runPass_rtcLast (s : State) (t : Transform) (r : Region) (ws : List Half) :
    (s.runPass t r ws).rtcLast = s.rtcLast := rfl
@[simp] theorem runPass_passes (s : State) (t : Transform) (r : Region) (ws : List Half) :
    (s.runPass t r ws).passes = s.passes ++ [{ transform := t, region := r }] := rfl
@[simp] theorem runPass_readData (s : State) (t : Transform) (r : Region) (ws : List Half) :
    (s.runPass t r ws).readData = s.readData := rfl
@[simp] theorem runPass_events (s : State) (t : Transform) (r : Region) (ws : List Half) :
    (s.runPass t r ws).events = s.events := rfl
@[simp] theorem runPass_schedule (s : State) (t : Transform) (r : Region) (ws : List Half) :
    (s.runPass t r ws).schedule = s.schedule := rfl
@[simp] theorem runPass_epoch (s : State) (t : Transform) (r : Region) (ws : List Half) :
    (s.runPass t r ws).epoch = s.epoch := rfl
@[simp] theorem runPass_draws (s : State) (t : Transform) (r : Region) (ws : List Half) :
    (s.runPass t r ws).draws = s.draws := rfl

/-! ### `raiseIrq` -/

@[simp] theorem raiseIrq_encTab (s : State) (id : IrqId) : (s.raiseIrq id).encTab = s.encTab := rfl
@[simp] theorem raiseIrq_decryptFlag (s : State) (id : IrqId) :
    (s.raiseIrq id).decryptFlag = s.decryptFlag := rfl
@[simp] theorem raiseIrq_bootDone (s : State) (id : IrqId) :
    (s.raiseIrq id).bootDone = s.bootDone := rfl
@[simp] theorem raiseIrq_rom (s : State) (id : IrqId) : (s.raiseIrq id).rom = s.rom := rfl
@[simp] theorem raiseIrq_share (s : State) (id : IrqId) : (s.raiseIrq id).share = s.share := rfl
@[simp] theorem raiseIrq_shareBank (s : State) (id : IrqId) :
    (s.raiseIrq id).shareBank = s.shareBank := rfl
@[simp] theorem raiseIrq_regs (s : State) (id : IrqId) : (s.raiseIrq id).regs = s.regs := rfl
@[simp] theorem raiseIrq_rawKey (s : State) (id : IrqId) : (s.raiseIrq id).rawKey = s.rawKey := rfl
@[simp] theorem raiseIrq_realKey (s : State) (id : IrqId) :
    (s.raiseIrq id).realKey = s.realKey := rfl
@[simp] theorem raiseIrq_lastCommand (s : State) (id : IrqId) :
    (s.raiseIrq id).lastCommand = s.lastCommand := rfl
@[simp] theorem raiseIrq_result0 (s : State) (id : IrqId) :
    (s.raiseIrq id).result0 = s.result0 := rfl
@[simp] theorem raiseIrq_result1 (s : State) (id : IrqId) :
    (s.raiseIrq id).result1 = s.result1 := rfl
@[simp] theorem raiseIrq_pendingEvent (s : State) (id : IrqId) :
    (s.raiseIrq id).pendingEvent = s.pendingEvent := rfl
@[simp] theorem raiseIrq_cards (s : State) (id : IrqId) : (s.raiseIrq id).cards = s.cards := rfl
@[simp] theorem raiseIrq_title (s : State) (id : IrqId) : (s.raiseIrq id).title = s.title := rfl
@[simp] theorem raiseIrq_rtcLast (s : State) (id : IrqId) :
    (s.raiseIrq id).rtcLast = s.rtcLast := rfl
@[simp] theorem raiseIrq_passes (s : State) (id : IrqId) : (s.raiseIrq id).passes = s.passes := rfl
@[simp] theorem raiseIrq_readData (s : State) (id : IrqId) :
    (s.raiseIrq id).readData = s.readData := rfl
@[simp] theorem raiseIrq_events (s : State) (id : IrqId) :
    (s.raiseIrq id).events = s.events ++ [.irq id] := rfl
@[simp] theorem raiseIrq_schedule (s : State) (id : IrqId) :
    (s.raiseIrq id).schedule = s.schedule := rfl
@[simp] theorem raiseIrq_epoch (s : State) (id : IrqId) : (s.raiseIrq id).epoch = s.epoch := rfl
@[simp] theorem raiseIrq_draws (s : State) (id : IrqId) : (s.raiseIrq id).draws = s.draws := rfl

/-! ### `logUnknown` -/

@[simp] theorem logUnknown_encTab (s : State) (r0 r1 : Word) :
    (s.logUnknown r0 r1).encTab = s.encTab := rfl
@[simp] theorem logUnknown_decryptFlag (s : State) (r0 r1 : Word) :
    (s.logUnknown r0 r1).decryptFlag = s.decryptFlag := rfl
@[simp] theorem logUnknown_bootDone (s : State) (r0 r1 : Word) :
    (s.logUnknown r0 r1).bootDone = s.bootDone := rfl
@[simp] theorem logUnknown_rom (s : State) (r0 r1 : Word) : (s.logUnknown r0 r1).rom = s.rom := rfl
@[simp] theorem logUnknown_share (s : State) (r0 r1 : Word) :
    (s.logUnknown r0 r1).share = s.share := rfl
@[simp] theorem logUnknown_shareBank (s : State) (r0 r1 : Word) :
    (s.logUnknown r0 r1).shareBank = s.shareBank := rfl
@[simp] theorem logUnknown_regs (s : State) (r0 r1 : Word) :
    (s.logUnknown r0 r1).regs = s.regs := rfl
@[simp] theorem logUnknown_rawKey (s : State) (r0 r1 : Word) :
    (s.logUnknown r0 r1).rawKey = s.rawKey := rfl
@[simp] theorem logUnknown_realKey (s : State) (r0 r1 : Word) :
    (s.logUnknown r0 r1).realKey = s.realKey := rfl
@[simp] theorem logUnknown_lastCommand (s : State) (r0 r1 : Word) :
    (s.logUnknown r0 r1).lastCommand = s.lastCommand := rfl
@[simp] theorem logUnknown_result0 (s : State) (r0 r1 : Word) :
    (s.logUnknown r0 r1).result0 = s.result0 := rfl
@[simp] theorem logUnknown_result1 (s : State) (r0 r1 : Word) :
    (s.logUnknown r0 r1).result1 = s.result1 := rfl
@[simp] theorem logUnknown_pendingEvent (s : State) (r0 r1 : Word) :
    (s.logUnknown r0 r1).pendingEvent = s.pendingEvent := rfl
@[simp] theorem logUnknown_cards (s : State) (r0 r1 : Word) :
    (s.logUnknown r0 r1).cards = s.cards := rfl
@[simp] theorem logUnknown_title (s : State) (r0 r1 : Word) :
    (s.logUnknown r0 r1).title = s.title := rfl
@[simp] theorem logUnknown_rtcLast (s : State) (r0 r1 : Word) :
    (s.logUnknown r0 r1).rtcLast = s.rtcLast := rfl
@[simp] theorem logUnknown_passes (s : State) (r0 r1 : Word) :
    (s.logUnknown r0 r1).passes = s.passes := rfl
@[simp] theorem logUnknown_readData (s : State) (r0 r1 : Word) :
    (s.logUnknown r0 r1).readData = s.readData := rfl
@[simp] theorem logUnknown_events (s : State) (r0 r1 : Word) :
    (s.logUnknown r0 r1).events = s.events ++ [.unknownCommand r0 r1] := rfl
@[simp] theorem logUnknown_schedule (s : State) (r0 r1 : Word) :
    (s.logUnknown r0 r1).schedule = s.schedule := rfl
@[simp] theorem logUnknown_epoch (s : State) (r0 r1 : Word) :
    (s.logUnknown r0 r1).epoch = s.epoch := rfl
@[simp] theorem logUnknown_draws (s : State) (r0 r1 : Word) :
    (s.logUnknown r0 r1).draws = s.draws := rfl

/-! ### `arm` -/

@[simp] theorem arm_encTab (s : State) (n : Nat) (u : DelayUnit) :
    (s.arm n u).encTab = s.encTab := rfl
@[simp] theorem arm_decryptFlag (s : State) (n : Nat) (u : DelayUnit) :
    (s.arm n u).decryptFlag = s.decryptFlag := rfl
@[simp] theorem arm_bootDone (s : State) (n : Nat) (u : DelayUnit) :
    (s.arm n u).bootDone = s.bootDone := rfl
@[simp] theorem arm_rom (s : State) (n : Nat) (u : DelayUnit) : (s.arm n u).rom = s.rom := rfl
@[simp] theorem arm_share (s : State) (n : Nat) (u : DelayUnit) : (s.arm n u).share = s.share := rfl
@[simp] theorem arm_shareBank (s : State) (n : Nat) (u : DelayUnit) :
    (s.arm n u).shareBank = s.shareBank := rfl
@[simp] theorem arm_regs (s : State) (n : Nat) (u : DelayUnit) : (s.arm n u).regs = s.regs := rfl
@[simp] theorem arm_rawKey (s : State) (n : Nat) (u : DelayUnit) :
    (s.arm n u).rawKey = s.rawKey := rfl
@[simp] theorem arm_realKey (s : State) (n : Nat) (u : DelayUnit) :
    (s.arm n u).realKey = s.realKey := rfl
@[simp] theorem arm_lastCommand (s : State) (n : Nat) (u : DelayUnit) :
    (s.arm n u).lastCommand = s.lastCommand := rfl
@[simp] theorem arm_result0 (s : State) (n : Nat) (u : DelayUnit) :
    (s.arm n u).result0 = s.result0 := rfl
@[simp] theorem arm_result1 (s : State) (n : Nat) (u : DelayUnit) :
    (s.arm n u).result1 = s.result1 := rfl
@[simp] theorem arm_pendingEvent (s : State) (n : Nat) (u : DelayUnit) :
    (s.arm n u).pendingEvent = some { count := n, unit := u } := rfl
@[simp] theorem arm_cards (s : State) (n : Nat) (u : DelayUnit) : (s.arm n u).cards = s.cards := rfl
@[simp] theorem arm_title (s : State) (n : Nat) (u : DelayUnit) : (s.arm n u).title = s.title := rfl
@[simp] theorem arm_rtcLast (s : State) (n : Nat) (u : DelayUnit) :
    (s.arm n u).rtcLast = s.rtcLast := rfl
@[simp] theorem arm_passes (s : State) (n : Nat) (u : DelayUnit) :
    (s.arm n u).passes = s.passes := rfl
@[simp] theorem arm_readData (s : State) (n : Nat) (u : DelayUnit) :
    (s.arm n u).readData = s.readData := rfl
@[simp] theorem arm_events (s : State) (n : Nat) (u : DelayUnit) :
    (s.arm n u).events = s.events := rfl
@[simp] theorem arm_schedule (s : State) (n : Nat) (u : DelayUnit) :
    (s.arm n u).schedule = s.schedule := rfl
@[simp] theorem arm_epoch (s : State) (n : Nat) (u : DelayUnit) : (s.arm n u).epoch = s.epoch := rfl
@[simp] theorem arm_draws (s : State) (n : Nat) (u : DelayUnit) : (s.arm n u).draws = s.draws := rfl

/-! ### `answer` -/

@[simp] theorem answer_encTab (s : State) (d : BusData) : (s.answer d).encTab = s.encTab := rfl
@[simp] theorem answer_decryptFlag (s : State) (d : BusData) :
    (s.answer d).decryptFlag = s.decryptFlag := rfl
@[simp] theorem answer_bootDone (s : State) (d : BusData) :
    (s.answer d).bootDone = s.bootDone := rfl
@[simp] theorem answer_rom (s : State) (d : BusData) : (s.answer d).rom = s.rom := rfl
@[simp] theorem answer_share (s : State) (d : BusData) : (s.answer d).share = s.share := rfl
@[simp] theorem answer_shareBank (s : State) (d : BusData) :
    (s.answer d).shareBank = s.shareBank := rfl
@[simp] theorem answer_regs (s : State) (d : BusData) : (s.answer d).regs = s.regs := rfl
@[simp] theorem answer_rawKey (s : State) (d : BusData) : (s.answer d).rawKey = s.rawKey := rfl
@[simp] theorem answer_realKey (s : State) (d : BusData) : (s.answer d).realKey = s.realKey := rfl
@[simp] theorem answer_lastCommand (s : State) (d : BusData) :
    (s.answer d).lastCommand = s.lastCommand := rfl
@[simp] theorem answer_result0 (s : State) (d : BusData) : (s.answer d).result0 = s.result0 := rfl
@[simp] theorem answer_result1 (s : State) (d : BusData) : (s.answer d).result1 = s.result1 := rfl
@[simp] theorem answer_pendingEvent (s : State) (d : BusData) :
    (s.answer d).pendingEvent = s.pendingEvent := rfl
@[simp] theorem answer_cards (s : State) (d : BusData) : (s.answer d).cards = s.cards := rfl
@[simp] theorem answer_title (s : State) (d : BusData) : (s.answer d).title = s.title := rfl
@[simp] theorem answer_rtcLast (s : State) (d : BusData) : (s.answer d).rtcLast = s.rtcLast := rfl
@[simp] theorem answer_passes (s : State) (d : BusData) : (s.answer d).passes = s.passes := rfl
@[simp] theorem answer_readData (s : State) (d : BusData) : (s.answer d).readData = some d := rfl
@[simp] theorem answer_events (s : State) (d : BusData) : (s.answer d).events = s.events := rfl
@[simp] theorem answer_schedule (s : State) (d : BusData) :
    (s.answer d).schedule = s.schedule := rfl
@[simp] theorem answer_epoch (s : State) (d : BusData) : (s.answer d).epoch = s.epoch := rfl
@[simp] theorem answer_draws (s : State) (d : BusData) : (s.answer d).draws = s.draws := rfl

/-! ### `tick` -/

@[simp] theorem tick_encTab (s : State) : (s.tick).encTab = s.encTab := rfl
@[simp] theorem tick_decryptFlag (s : State) : (s.tick).decryptFlag = s.decryptFlag := rfl
@[simp] theorem tick_bootDone (s : State) : (s.tick).bootDone = s.bootDone := rfl
@[simp] theorem tick_rom (s : State) : (s.tick).rom = s.rom := rfl
@[simp] theorem tick_share (s : State) : (s.tick).share = s.share := rfl
@[simp] theorem tick_shareBank (s : State) : (s.tick).shareBank = s.shareBank := rfl
@[simp] theorem tick_regs (s : State) : (s.tick).regs = s.regs := rfl
@[simp] theorem tick_rawKey (s : State) : (s.tick).rawKey = s.rawKey := rfl
@[simp] theorem tick_realKey (s : State) : (s.tick).realKey = s.realKey := rfl
@[simp] theorem tick_lastCommand (s : State) : (s.tick).lastCommand = s.lastCommand := rfl
@[simp] theorem tick_result0 (s : State) : (s.tick).result0 = s.result0 := rfl
@[simp] theorem tick_result1 (s : State) : (s.tick).result1 = s.result1 := rfl
@[simp] theorem tick_pendingEvent (s : State) : (s.tick).pendingEvent = s.pendingEvent := rfl
@[simp] theorem tick_cards (s : State) : (s.tick).cards = s.cards := rfl
@[simp] theorem tick_title (s : State) : (s.tick).title = s.title := rfl
@[simp] theorem tick_rtcLast (s : State) : (s.tick).rtcLast = s.rtcLast := rfl
@[simp] theorem tick_passes (s : State) : (s.tick).passes = s.passes := rfl
@[simp] theorem tick_readData (s : State) : (s.tick).readData = s.readData := rfl
@[simp] theorem tick_events (s : State) : (s.tick).events = s.events := rfl
@[simp] theorem tick_schedule (s : State) : (s.tick).schedule = s.schedule := rfl
@[simp] theorem tick_epoch (s : State) : (s.tick).epoch = s.epoch := rfl
@[simp] theorem tick_draws (s : State) : (s.tick).draws = s.draws + 1 := rfl

/-! ### `beginCommand` -/

@[simp] theorem beginCommand_encTab (s : State) (cmd : Byte) :
    (s.beginCommand cmd).encTab = s.encTab := rfl
@[simp] theorem beginCommand_decryptFlag (s : State) (cmd : Byte) :
    (s.beginCommand cmd).decryptFlag = s.decryptFlag := rfl
@[simp] theorem beginCommand_bootDone (s : State) (cmd : Byte) :
    (s.beginCommand cmd).bootDone = s.bootDone := rfl
@[simp] theorem beginCommand_rom (s : State) (cmd : Byte) : (s.beginCommand cmd).rom = s.rom := rfl
@[simp] theorem beginCommand_share (s : State) (cmd : Byte) :
    (s.beginCommand cmd).share = s.share := rfl
@[simp] theorem beginCommand_shareBank (s : State) (cmd : Byte) :
    (s.beginCommand cmd).shareBank = s.shareBank := rfl
@[simp] theorem beginCommand_regs (s : State) (cmd : Byte) :
    (s.beginCommand cmd).regs = s.regs := rfl
@[simp] theorem beginCommand_rawKey (s : State) (cmd : Byte) :
    (s.beginCommand cmd).rawKey = s.rawKey := rfl
@[simp] theorem beginCommand_realKey (s : State) (cmd : Byte) :
    (s.beginCommand cmd).realKey = s.realKey := rfl
@[simp] theorem beginCommand_lastCommand (s : State) (cmd : Byte) :
    (s.beginCommand cmd).lastCommand = cmd := rfl
@[simp] theorem beginCommand_result0 (s : State) (cmd : Byte) :
    (s.beginCommand cmd).result0 = s.result0 := rfl
@[simp] theorem beginCommand_result1 (s : State) (cmd : Byte) :
    (s.beginCommand cmd).result1 = s.result1 := rfl
@[simp] theorem beginCommand_pendingEvent (s : State) (cmd : Byte) :
    (s.beginCommand cmd).pendingEvent = s.pendingEvent := rfl
@[simp] theorem beginCommand_cards (s : State) (cmd : Byte) :
    (s.beginCommand cmd).cards = s.cards := rfl
@[simp] theorem beginCommand_title (s : State) (cmd : Byte) :
    (s.beginCommand cmd).title = s.title := rfl
@[simp] theorem beginCommand_rtcLast (s : State) (cmd : Byte) :
    (s.beginCommand cmd).rtcLast = s.rtcLast := rfl
@[simp] theorem beginCommand_passes (s : State) (cmd : Byte) :
    (s.beginCommand cmd).passes = s.passes := rfl
@[simp] theorem beginCommand_readData (s : State) (cmd : Byte) :
    (s.beginCommand cmd).readData = s.readData := rfl
@[simp] theorem beginCommand_events (s : State) (cmd : Byte) :
    (s.beginCommand cmd).events = s.events := rfl
@[simp] theorem beginCommand_schedule (s : State) (cmd : Byte) :
    (s.beginCommand cmd).schedule = s.schedule := rfl
@[simp] theorem beginCommand_epoch (s : State) (cmd : Byte) :
    (s.beginCommand cmd).epoch = s.epoch := rfl
@[simp] theorem beginCommand_draws (s : State) (cmd : Byte) :
    (s.beginCommand cmd).draws = s.draws := rfl

/-! ### `resultIsCommand` -/

@[simp] theorem resultIsCommand_encTab (s : State) (cmd : Byte) :
    (s.resultIsCommand cmd).encTab = s.encTab := rfl
@[simp] theorem resultIsCommand_decryptFlag (s : State) (cmd : Byte) :
    (s.resultIsCommand cmd).decryptFlag = s.decryptFlag := rfl
@[simp] theorem resultIsCommand_bootDone (s : State) (cmd : Byte) :
    (s.resultIsCommand cmd).bootDone = s.bootDone := rfl
@[simp] theorem resultIsCommand_rom (s : State) (cmd : Byte) :
    (s.resultIsCommand cmd).rom = s.rom := rfl
@[simp] theorem resultIsCommand_share (s : State) (cmd : Byte) :
    (s.resultIsCommand cmd).share = s.share := rfl
@[simp] theorem resultIsCommand_shareBank (s : State) (cmd : Byte) :
    (s.resultIsCommand cmd).shareBank = s.shareBank := rfl
@[simp] theorem resultIsCommand_regs (s : State) (cmd : Byte) :
    (s.resultIsCommand cmd).regs = s.regs := rfl
@[simp] theorem resultIsCommand_rawKey (s : State) (cmd : Byte) :
    (s.resultIsCommand cmd).rawKey = s.rawKey := rfl
@[simp] theorem resultIsCommand_realKey (s : State) (cmd : Byte) :
    (s.resultIsCommand cmd).realKey = s.realKey := rfl
@[simp] theorem resultIsCommand_lastCommand (s : State) (cmd : Byte) :
    (s.resultIsCommand cmd).lastCommand = s.lastCommand := rfl
@[simp] theorem resultIsCommand_result0 (s : State) (cmd : Byte) :
    (s.resultIsCommand cmd).result0 = cmd.setWidth 32 := rfl
@[simp] theorem resultIsCommand_result1 (s : State) (cmd : Byte) :
    (s.resultIsCommand cmd).result1 = s.result1 := rfl
@[simp] theorem resultIsCommand_pendingEvent (s : State) (cmd : Byte) :
    (s.resultIsCommand cmd).pendingEvent = s.pendingEvent := rfl
@[simp] theorem resultIsCommand_cards (s : State) (cmd : Byte) :
    (s.resultIsCommand cmd).cards = s.cards := rfl
@[simp] theorem resultIsCommand_title (s : State) (cmd : Byte) :
    (s.resultIsCommand cmd).title = s.title := rfl
@[simp] theorem resultIsCommand_rtcLast (s : State) (cmd : Byte) :
    (s.resultIsCommand cmd).rtcLast = s.rtcLast := rfl
@[simp] theorem resultIsCommand_passes (s : State) (cmd : Byte) :
    (s.resultIsCommand cmd).passes = s.passes := rfl
@[simp] theorem resultIsCommand_readData (s : State) (cmd : Byte) :
    (s.resultIsCommand cmd).readData = s.readData := rfl
@[simp] theorem resultIsCommand_events (s : State) (cmd : Byte) :
    (s.resultIsCommand cmd).events = s.events := rfl
@[simp] theorem resultIsCommand_schedule (s : State) (cmd : Byte) :
    (s.resultIsCommand cmd).schedule = s.schedule := rfl
@[simp] theorem resultIsCommand_epoch (s : State) (cmd : Byte) :
    (s.resultIsCommand cmd).epoch = s.epoch := rfl
@[simp] theorem resultIsCommand_draws (s : State) (cmd : Byte) :
    (s.resultIsCommand cmd).draws = s.draws := rfl

/-! ### `finishCommand` -/

@[simp] theorem finishCommand_encTab (s : State) (st : Byte) (d : Nat) :
    (s.finishCommand st d).encTab = s.encTab := rfl
@[simp] theorem finishCommand_decryptFlag (s : State) (st : Byte) (d : Nat) :
    (s.finishCommand st d).decryptFlag = s.decryptFlag := rfl
@[simp] theorem finishCommand_bootDone (s : State) (st : Byte) (d : Nat) :
    (s.finishCommand st d).bootDone = s.bootDone := rfl
@[simp] theorem finishCommand_rom (s : State) (st : Byte) (d : Nat) :
    (s.finishCommand st d).rom = s.rom := rfl
@[simp] theorem finishCommand_share (s : State) (st : Byte) (d : Nat) :
    (s.finishCommand st d).share = s.share := rfl
@[simp] theorem finishCommand_shareBank (s : State) (st : Byte) (d : Nat) :
    (s.finishCommand st d).shareBank = s.shareBank := rfl
@[simp] theorem finishCommand_regs (s : State) (st : Byte) (d : Nat) :
    (s.finishCommand st d).regs = s.regs.set 3 (packStatus (s.reg 3) st) := rfl
@[simp] theorem finishCommand_rawKey (s : State) (st : Byte) (d : Nat) :
    (s.finishCommand st d).rawKey = s.rawKey := rfl
@[simp] theorem finishCommand_realKey (s : State) (st : Byte) (d : Nat) :
    (s.finishCommand st d).realKey = s.realKey := rfl
@[simp] theorem finishCommand_lastCommand (s : State) (st : Byte) (d : Nat) :
    (s.finishCommand st d).lastCommand = s.lastCommand := rfl
@[simp] theorem finishCommand_result0 (s : State) (st : Byte) (d : Nat) :
    (s.finishCommand st d).result0 = s.result0 := rfl
@[simp] theorem finishCommand_result1 (s : State) (st : Byte) (d : Nat) :
    (s.finishCommand st d).result1 = s.result1 := rfl
@[simp] theorem finishCommand_pendingEvent (s : State) (st : Byte) (d : Nat) :
    (s.finishCommand st d).pendingEvent = some { count := d, unit := .issue } := rfl
@[simp] theorem finishCommand_cards (s : State) (st : Byte) (d : Nat) :
    (s.finishCommand st d).cards = s.cards := rfl
@[simp] theorem finishCommand_title (s : State) (st : Byte) (d : Nat) :
    (s.finishCommand st d).title = s.title := rfl
@[simp] theorem finishCommand_rtcLast (s : State) (st : Byte) (d : Nat) :
    (s.finishCommand st d).rtcLast = s.rtcLast := rfl
@[simp] theorem finishCommand_passes (s : State) (st : Byte) (d : Nat) :
    (s.finishCommand st d).passes = s.passes := rfl
@[simp] theorem finishCommand_readData (s : State) (st : Byte) (d : Nat) :
    (s.finishCommand st d).readData = s.readData := rfl
@[simp] theorem finishCommand_events (s : State) (st : Byte) (d : Nat) :
    (s.finishCommand st d).events = s.events := rfl
@[simp] theorem finishCommand_schedule (s : State) (st : Byte) (d : Nat) :
    (s.finishCommand st d).schedule = s.schedule := rfl
@[simp] theorem finishCommand_epoch (s : State) (st : Byte) (d : Nat) :
    (s.finishCommand st d).epoch = s.epoch := rfl
@[simp] theorem finishCommand_draws (s : State) (st : Byte) (d : Nat) :
    (s.finishCommand st d).draws = s.draws := rfl

/-! ### `programDecrypt` -/

@[simp] theorem programDecrypt_encTab (s : State) : (programDecrypt s).encTab = s.encTab := rfl
@[simp] theorem programDecrypt_decryptFlag (s : State) :
    (programDecrypt s).decryptFlag = s.decryptFlag := rfl
@[simp] theorem programDecrypt_bootDone (s : State) :
    (programDecrypt s).bootDone = s.bootDone := rfl
@[simp] theorem programDecrypt_rom (s : State) :
    (programDecrypt s).rom = s.rom.set .program (progCipher Config.cfg s.encTable s.title.subKey (s.rom.get .program)) := rfl
@[simp] theorem programDecrypt_share (s : State) : (programDecrypt s).share = s.share := rfl
@[simp] theorem programDecrypt_shareBank (s : State) :
    (programDecrypt s).shareBank = s.shareBank := rfl
@[simp] theorem programDecrypt_regs (s : State) : (programDecrypt s).regs = s.regs := rfl
@[simp] theorem programDecrypt_rawKey (s : State) : (programDecrypt s).rawKey = s.rawKey := rfl
@[simp] theorem programDecrypt_realKey (s : State) : (programDecrypt s).realKey = s.realKey := rfl
@[simp] theorem programDecrypt_lastCommand (s : State) :
    (programDecrypt s).lastCommand = s.lastCommand := rfl
@[simp] theorem programDecrypt_result0 (s : State) : (programDecrypt s).result0 = s.result0 := rfl
@[simp] theorem programDecrypt_result1 (s : State) : (programDecrypt s).result1 = s.result1 := rfl
@[simp] theorem programDecrypt_pendingEvent (s : State) :
    (programDecrypt s).pendingEvent = s.pendingEvent := rfl
@[simp] theorem programDecrypt_cards (s : State) : (programDecrypt s).cards = s.cards := rfl
@[simp] theorem programDecrypt_title (s : State) : (programDecrypt s).title = s.title := rfl
@[simp] theorem programDecrypt_rtcLast (s : State) : (programDecrypt s).rtcLast = s.rtcLast := rfl
@[simp] theorem programDecrypt_passes (s : State) :
    (programDecrypt s).passes = s.passes ++ [{ transform := .progdec, region := .program }] := rfl
@[simp] theorem programDecrypt_readData (s : State) :
    (programDecrypt s).readData = s.readData := rfl
@[simp] theorem programDecrypt_events (s : State) : (programDecrypt s).events = s.events := rfl
@[simp] theorem programDecrypt_schedule (s : State) :
    (programDecrypt s).schedule = s.schedule := rfl
@[simp] theorem programDecrypt_epoch (s : State) : (programDecrypt s).epoch = s.epoch := rfl
@[simp] theorem programDecrypt_draws (s : State) : (programDecrypt s).draws = s.draws := rfl

/-! ### Readers over updates they do not touch -/

@[simp] theorem encTabByte_setReg (s : State) (i : Fin 8) (v : Word) (k : Nat) :
    (s.setReg i v).encTabByte k = s.encTabByte k := rfl
@[simp] theorem shareByte_setReg (s : State) (i : Fin 8) (v : Word) (p : Nat) :
    (s.setReg i v).shareByte p = s.shareByte p := rfl
@[simp] theorem cardPresent_setReg (s : State) (i : Fin 8) (v : Word) (x : Fin 4) :
    (s.setReg i v).cardPresent x = s.cardPresent x := rfl
@[simp] theorem encTable_setReg (s : State) (i : Fin 8) (v : Word) :
    (s.setReg i v).encTable = s.encTable := rfl

@[simp] theorem encTabByte_setStatus (s : State) (st : Byte) (k : Nat) :
    (s.setStatus st).encTabByte k = s.encTabByte k := rfl
@[simp] theorem shareByte_setStatus (s : State) (st : Byte) (p : Nat) :
    (s.setStatus st).shareByte p = s.shareByte p := rfl
@[simp] theorem cardPresent_setStatus (s : State) (st : Byte) (x : Fin 4) :
    (s.setStatus st).cardPresent x = s.cardPresent x := rfl
@[simp] theorem encTable_setStatus (s : State) (st : Byte) :
    (s.setStatus st).encTable = s.encTable := rfl

@[simp] theorem reg_setEncTab (s : State) (k : Nat) (v : Byte) (j : Fin 8) :
    (s.setEncTab k v).reg j = s.reg j := rfl
@[simp] theorem shareByte_setEncTab (s : State) (k : Nat) (v : Byte) (p : Nat) :
    (s.setEncTab k v).shareByte p = s.shareByte p := rfl
@[simp] theorem cardPresent_setEncTab (s : State) (k : Nat) (v : Byte) (x : Fin 4) :
    (s.setEncTab k v).cardPresent x = s.cardPresent x := rfl

@[simp] theorem reg_portAWrite (s : State) (o : Nat) (v : Byte) (j : Fin 8) :
    (s.portAWrite o v).reg j = s.reg j := rfl
@[simp] theorem encTabByte_portAWrite (s : State) (o : Nat) (v : Byte) (k : Nat) :
    (s.portAWrite o v).encTabByte k = s.encTabByte k := rfl
@[simp] theorem cardPresent_portAWrite (s : State) (o : Nat) (v : Byte) (x : Fin 4) :
    (s.portAWrite o v).cardPresent x = s.cardPresent x := rfl
@[simp] theorem encTable_portAWrite (s : State) (o : Nat) (v : Byte) :
    (s.portAWrite o v).encTable = s.encTable := rfl

@[simp] theorem reg_portBWriteList (s : State) (vs : List Byte) (j : Fin 8) :
    (s.portBWriteList vs).reg j = s.reg j := rfl
@[simp] theorem encTabByte_portBWriteList (s : State) (vs : List Byte) (k : Nat) :
    (s.portBWriteList vs).encTabByte k = s.encTabByte k := rfl
@[simp] theorem cardPresent_portBWriteList (s : State) (vs : List Byte) (x : Fin 4) :
    (s.portBWriteList vs).cardPresent x = s.cardPresent x := rfl
@[simp] theorem encTable_portBWriteList (s : State) (vs : List Byte) :
    (s.portBWriteList vs).encTable = s.encTable := rfl

@[simp] theorem reg_runPass (s : State) (t : Transform) (r : Region) (ws : List Half) (j : Fin 8) :
    (s.runPass t r ws).reg j = s.reg j := rfl
@[simp] theorem encTabByte_runPass (s : State) (t : Transform) (r : Region) (ws : List Half) (k : Nat) :
    (s.runPass t r ws).encTabByte k = s.encTabByte k := rfl
@[simp] theorem shareByte_runPass (s : State) (t : Transform) (r : Region) (ws : List Half) (p : Nat) :
    (s.runPass t r ws).shareByte p = s.shareByte p := rfl
@[simp] theorem cardPresent_runPass (s : State) (t : Transform) (r : Region) (ws : List Half) (x : Fin 4) :
    (s.runPass t r ws).cardPresent x = s.cardPresent x := rfl
@[simp] theorem encTable_runPass (s : State) (t : Transform) (r : Region) (ws : List Half) :
    (s.runPass t r ws).encTable = s.encTable := rfl

@[simp] theorem reg_raiseIrq (s : State) (id : IrqId) (j : Fin 8) :
    (s.raiseIrq id).reg j = s.reg j := rfl
@[simp] theorem encTabByte_raiseIrq (s : State) (id : IrqId) (k : Nat) :
    (s.raiseIrq id).encTabByte k = s.encTabByte k := rfl
@[simp] theorem shareByte_raiseIrq (s : State) (id : IrqId) (p : Nat) :
    (s.raiseIrq id).shareByte p = s.shareByte p := rfl
@[simp] theorem cardPresent_raiseIrq (s : State) (id : IrqId) (x : Fin 4) :
    (s.raiseIrq id).cardPresent x = s.cardPresent x := rfl
@[simp] theorem encTable_raiseIrq (s : State) (id : IrqId) :
    (s.raiseIrq id).encTable = s.encTable := rfl

@[simp] theorem reg_logUnknown (s : State) (r0 r1 : Word) (j : Fin 8) :
    (s.logUnknown r0 r1).reg j = s.reg j := rfl
@[simp] theorem encTabByte_logUnknown (s : State) (r0 r1 : Word) (k : Nat) :
    (s.logUnknown r0 r1).encTabByte k = s.encTabByte k := rfl
@[simp] theorem shareByte_logUnknown (s : State) (r0 r1 : Word) (p : Nat) :
    (s.logUnknown r0 r1).shareByte p = s.shareByte p := rfl
@[simp] theorem cardPresent_logUnknown (s : State) (r0 r1 : Word) (x : Fin 4) :
    (s.logUnknown r0 r1).cardPresent x = s.cardPresent x := rfl
@[simp] theorem encTable_logUnknown (s : State) (r0 r1 : Word) :
    (s.logUnknown r0 r1).encTable = s.encTable := rfl

@[simp] theorem reg_arm (s : State) (n : Nat) (u : DelayUnit) (j : Fin 8) :
    (s.arm n u).reg j = s.reg j := rfl
@[simp] theorem encTabByte_arm (s : State) (n : Nat) (u : DelayUnit) (k : Nat) :
    (s.arm n u).encTabByte k = s.encTabByte k := rfl
@[simp] theorem shareByte_arm (s : State) (n : Nat) (u : DelayUnit) (p : Nat) :
    (s.arm n u).shareByte p = s.shareByte p := rfl
@[simp] theorem cardPresent_arm (s : State) (n : Nat) (u : DelayUnit) (x : Fin 4) :
    (s.arm n u).cardPresent x = s.cardPresent x := rfl
@[simp] theorem encTable_arm (s : State) (n : Nat) (u : DelayUnit) :
    (s.arm n u).encTable = s.encTable := rfl

@[simp] theorem reg_answer (s : State) (d : BusData) (j : Fin 8) :
    (s.answer d).reg j = s.reg j := rfl
@[simp] theorem encTabByte_answer (s : State) (d : BusData) (k : Nat) :
    (s.answer d).encTabByte k = s.encTabByte k := rfl
@[simp] theorem shareByte_answer (s : State) (d : BusData) (p : Nat) :
    (s.answer d).shareByte p = s.shareByte p := rfl
@[simp] theorem cardPresent_answer (s : State) (d : BusData) (x : Fin 4) :
    (s.answer d).cardPresent x = s.cardPresent x := rfl
@[simp] theorem encTable_answer (s : State) (d : BusData) :
    (s.answer d).encTable = s.encTable := rfl

@[simp] theorem reg_tick (s : State) (j : Fin 8) : (s.tick).reg j = s.reg j := rfl
@[simp] theorem encTabByte_tick (s : State) (k : Nat) :
    (s.tick).encTabByte k = s.encTabByte k := rfl
@[simp] theorem shareByte_tick (s : State) (p : Nat) : (s.tick).shareByte p = s.shareByte p := rfl
@[simp] theorem cardPresent_tick (s : State) (x : Fin 4) :
    (s.tick).cardPresent x = s.cardPresent x := rfl
@[simp] theorem encTable_tick (s : State) : (s.tick).encTable = s.encTable := rfl

@[simp] theorem reg_beginCommand (s : State) (cmd : Byte) (j : Fin 8) :
    (s.beginCommand cmd).reg j = s.reg j := rfl
@[simp] theorem encTabByte_beginCommand (s : State) (cmd : Byte) (k : Nat) :
    (s.beginCommand cmd).encTabByte k = s.encTabByte k := rfl
@[simp] theorem shareByte_beginCommand (s : State) (cmd : Byte) (p : Nat) :
    (s.beginCommand cmd).shareByte p = s.shareByte p := rfl
@[simp] theorem cardPresent_beginCommand (s : State) (cmd : Byte) (x : Fin 4) :
    (s.beginCommand cmd).cardPresent x = s.cardPresent x := rfl
@[simp] theorem encTable_beginCommand (s : State) (cmd : Byte) :
    (s.beginCommand cmd).encTable = s.encTable := rfl

@[simp] theorem reg_resultIsCommand (s : State) (cmd : Byte) (j : Fin 8) :
    (s.resultIsCommand cmd).reg j = s.reg j := rfl
@[simp] theorem encTabByte_resultIsCommand (s : State) (cmd : Byte) (k : Nat) :
    (s.resultIsCommand cmd).encTabByte k = s.encTabByte k := rfl
@[simp] theorem shareByte_resultIsCommand (s : State) (cmd : Byte) (p : Nat) :
    (s.resultIsCommand cmd).shareByte p = s.shareByte p := rfl
@[simp] theorem cardPresent_resultIsCommand (s : State) (cmd : Byte) (x : Fin 4) :
    (s.resultIsCommand cmd).cardPresent x = s.cardPresent x := rfl
@[simp] theorem encTable_resultIsCommand (s : State) (cmd : Byte) :
    (s.resultIsCommand cmd).encTable = s.encTable := rfl

@[simp] theorem encTabByte_finishCommand (s : State) (st : Byte) (d : Nat) (k : Nat) :
    (s.finishCommand st d).encTabByte k = s.encTabByte k := rfl
@[simp] theorem shareByte_finishCommand (s : State) (st : Byte) (d : Nat) (p : Nat) :
    (s.finishCommand st d).shareByte p = s.shareByte p := rfl
@[simp] theorem cardPresent_finishCommand (s : State) (st : Byte) (d : Nat) (x : Fin 4) :
    (s.finishCommand st d).cardPresent x = s.cardPresent x := rfl
@[simp] theorem encTable_finishCommand (s : State) (st : Byte) (d : Nat) :
    (s.finishCommand st d).encTable = s.encTable := rfl

@[simp] theorem reg_programDecrypt (s : State) (j : Fin 8) :
    (programDecrypt s).reg j = s.reg j := rfl
@[simp] theorem encTabByte_programDecrypt (s : State) (k : Nat) :
    (programDecrypt s).encTabByte k = s.encTabByte k := rfl
@[simp] theorem shareByte_programDecrypt (s : State) (p : Nat) :
    (programDecrypt s).shareByte p = s.shareByte p := rfl
@[simp] theorem cardPresent_programDecrypt (s : State) (x : Fin 4) :
    (programDecrypt s).cardPresent x = s.cardPresent x := rfl
@[simp] theorem encTable_programDecrypt (s : State) :
    (programDecrypt s).encTable = s.encTable := rfl

end Sys2Proof.Machine
end

