-- ==== Sys2Proof/Laws/Ops.lean ====
section
/-! SUPPORT. Laws/Ops.lean: for each shared operation what it can do, said once: the MCU registers,
the table, the ports, the ROM buffers, the cards, the status pack. -/

namespace Sys2Proof.Machine

/-! ### MCU registers -/

theorem reg_setReg (s : State) (i j : Fin 8) (v : Word) :
    (s.setReg i v).reg j = if j = i then v else s.reg j := by
  simp only [State.reg, State.setReg, Fin.getElem_fin, Vector.getElem_set, Fin.ext_iff]
  grind

@[simp] theorem reg_setReg_same (s : State) (i : Fin 8) (v : Word) : (s.setReg i v).reg i = v := by
  simp [reg_setReg]

theorem reg_setReg_other (s : State) {i j : Fin 8} (v : Word) (h : j ≠ i) :
    (s.setReg i v).reg j = s.reg j := by simp [reg_setReg, h]

/-- A status pack changes `REG[3]` only. -/
theorem reg_setStatus (s : State) (st : Byte) (j : Fin 8) :
    (s.setStatus st).reg j = if j = 3 then packStatus (s.reg 3) st else s.reg j :=
  reg_setReg s 3 j _

theorem reg_finishCommand (s : State) (st : Byte) (d : Nat) (j : Fin 8) :
    (s.finishCommand st d).reg j = if j = 3 then packStatus (s.reg 3) st else s.reg j :=
  reg_setReg s 3 j _

/-- The status byte of a packed word is the status. -/
@[simp] theorem statusOf_packStatus (w : Word) (st : Byte) : statusOf (packStatus w st) = st := by
  ext i hi
  simp only [statusOf, packStatus]
  have : i < 8 := hi
  interval_cases i <;> simp

/-- A pack leaves every other bit of the word. -/
theorem packStatus_getLsbD_other (w : Word) (st : Byte) {p : Nat} (hp : p < 32)
    (h : p < 16 ∨ 24 ≤ p) : (packStatus w st).getLsbD p = w.getLsbD p := by
  simp only [packStatus]
  interval_cases p <;> simp_all

/-! ### `ENCTAB` and `SHARE` -/

theorem encTabByte_setEncTab (s : State) (k j : Nat) (v : Byte) :
    (s.setEncTab k v).encTabByte j = if j = k then v else s.encTabByte j := by
  simp only [State.encTabByte, setEncTab_encTab, setEncTab_epoch, Memory.read_write]
  split <;> rfl

theorem shareByte_portAWrite (s : State) (o p : Nat) (v : Byte) :
    (s.portAWrite o v).shareByte p =
      if p = portAIndex s.shareBank o then v else s.shareByte p := by
  simp only [State.shareByte, portAWrite_share, portAWrite_epoch, Memory.read_write]
  split <;> rfl

/-- A command's run of writes changes the cells of logical offsets below its length, in the opposite
bank, and no other. -/
theorem shareByte_portBWriteList (s : State) (vs : List Byte) (p : Nat) :
    (s.portBWriteList vs).shareByte p =
      if portBIndex s.shareBank 0 ≤ p ∧ p < portBIndex s.shareBank 0 + vs.length
      then vs.getD (p - portBIndex s.shareBank 0) 0#8 else s.shareByte p := by
  simp only [State.shareByte, portBWriteList_share, portBWriteList_epoch, Memory.read_writeList]
  split
  · next h =>
    have : p - portBIndex s.shareBank 0 < vs.length := by omega
    simp [this]
  · rfl

theorem bank_cases (b : BitVec 1) : b = 0#1 ∨ b = 1#1 := by
  revert b; decide

theorem portAIndex_lt (b : BitVec 1) {o : Nat} (h : o < 128) : portAIndex b o < 256 := by
  rcases bank_cases b with rfl | rfl <;> simp [portAIndex] <;> omega

theorem portBIndex_lt (b : BitVec 1) {o : Nat} (h : o < 128) : portBIndex b o < 256 := by
  rcases bank_cases b with rfl | rfl <;> simp [portBIndex] <;> omega

/-- The two ports' indices differ in bit 7 (43_share_ram.md R176). -/
theorem portAIndex_ne_portBIndex (b : BitVec 1) {oA oB : Nat} (hA : oA < 128) (hB : oB < 128) :
    portAIndex b oA ≠ portBIndex b oB := by
  rcases bank_cases b with rfl | rfl <;> simp [portAIndex, portBIndex] <;> omega

/-! ### ROM buffers -/

theorem RomBank.get_set (rom : RomBank) (r r' : Region) (ws : List Half) :
    (rom.set r ws).get r' = if r' = r then ws else rom.get r' := by
  cases r <;> cases r' <;> rfl

@[simp] theorem RomBank.get_set_same (rom : RomBank) (r : Region) (ws : List Half) :
    (rom.set r ws).get r = ws := by simp [RomBank.get_set]

@[simp] theorem RomBank.set_set (rom : RomBank) (r : Region) (ws ws' : List Half) :
    (rom.set r ws).set r ws' = rom.set r ws' := by cases r <;> rfl

@[simp] theorem RomBank.set_get (rom : RomBank) (r : Region) : rom.set r (rom.get r) = rom := by
  cases r <;> rfl

/-- A pass changes its buffer and is recorded; the other buffers stay. -/
theorem runPass_get (s : State) (t : Transform) (r r' : Region) (ws : List Half) :
    (s.runPass t r ws).rom.get r' = if r' = r then ws else s.rom.get r' := by
  rw [runPass_rom, RomBank.get_set]

/-! ### Interrupt numbers and delays -/

/-- The two interrupt numbers are distinct (60_exceptions.md R263). -/
theorem irqId_number_injective (c : Cfg) : Function.Injective (IrqId.number c) := by
  intro a b h
  cases a <;> cases b <;> simp_all [IrqId.number, Cfg.irqFrame, Cfg.irqMcu]

/-- A unit is not empty (44_mcu_protocol.md R219). -/
theorem ticks_pos (c : Cfg) (u : DelayUnit) : 0 < u.ticks c := by
  cases u <;> exact PNat.pos _

/-- Every legal completion is due strictly after it was armed (70_reset_and_hazards.md R305 (a)). -/
theorem delay_pos (c : Cfg) (e : Completion) (h : legalCompletion e = true) : 0 < e.delay c := by
  refine Nat.mul_pos ?_ (ticks_pos c e.unit)
  rcases e with ⟨n, u⟩
  cases u <;> simp [legalCompletion, Config.delayDefault, Config.delayEcho, Config.delayAck] at h <;>
    grind

/-! ### Cards -/

/-- All that a card write can do: nothing on an empty slot; else the slot holds a card of the same
length, and at most the count of free values moves besides. -/
theorem cardWrite_cases (s : State) (slot : Fin 4) (off : Nat) (b : Byte) :
    (s.cards[slot] = none ∧ s.cardWrite slot off b = s) ∨
    (∃ bytes bytes', s.cards[slot] = some bytes ∧ bytes'.length = bytes.length ∧
      (off < bytes.length → bytes' = bytes.set off b) ∧
      ∃ d, s.cardWrite slot off b =
        { s with cards := s.cards.set slot (some bytes'), draws := d }) := by
  cases h : s.cards[slot] with
  | none => exact .inl ⟨rfl, by simp only [State.cardWrite, h]⟩
  | some bytes =>
    by_cases hoff : off < bytes.length
    · exact .inr ⟨bytes, bytes.set off b, rfl, by simp, fun _ => rfl, s.draws, by
        simp only [State.cardWrite, h, if_pos hoff]⟩
    · exact .inr ⟨bytes, (List.range bytes.length).map (Config.cardPastEndWrite s.draws), rfl,
        by simp, fun h => absurd h hoff, s.draws + 1, by
        simp only [State.cardWrite, h, if_neg hoff]⟩

/-- A run of card writes changes at most the cards and the count of free values. -/
theorem cardWriteList_frame (vs : List Byte) (s : State) (slot : Fin 4) (off : Nat) :
    ∃ c d, s.cardWriteList slot off vs = { s with cards := c, draws := d } := by
  induction vs generalizing s off with
  | nil => exact ⟨s.cards, s.draws, rfl⟩
  | cons v vs ih =>
    obtain ⟨c, d, h⟩ := ih (s.cardWrite slot off v) (off + 1)
    rcases cardWrite_cases s slot off v with ⟨-, hw⟩ | ⟨_, _, -, -, -, _, hw⟩
    · exact ⟨c, d, by simp only [State.cardWriteList, h]; rw [hw]⟩
    · exact ⟨c, d, by simp only [State.cardWriteList, h]; rw [hw]⟩

end Sys2Proof.Machine
end

