-- ==== Sys2Proof/Laws/Commands.lean ====
section
/-! SUPPORT. Laws/Commands.lean: what a command can do, said once: which command an issue runs, and
the frame that every command keeps. -/

namespace Sys2Proof.Machine

/-- An issue runs the operation that the word in `REG[0]` decodes to. -/
theorem runCommand_eq_exec (s : State) : runCommand s = exec (decodeCommand (s.reg 0)) s := by
  unfold runCommand decodeCommand
  cases cmdOp (byteOf (s.reg 0) 0) <;> rfl

/-- All that a command can do to a state: it writes at most 128 bytes, into the opposite bank from
logical offset 0; it may change the registers, the protocol variables, the cards and the count of
free values; it arms one completion of 1 or 30 units; and it may append records other than the
completion interrupt to the event history. -/
def CommandFrame (s t : State) : Prop :=
  ∃ vs : List Byte, vs.length ≤ 128 ∧ ∃ ev, .irq .mcu ∉ ev ∧ ∃ c, (c = 1 ∨ c = 30) ∧
    t = { s with
          share := Memory.writeList s.share (portBIndex s.shareBank 0) vs
          regs := t.regs
          lastCommand := t.lastCommand
          result0 := t.result0
          result1 := t.result1
          pendingEvent := some { count := c, unit := .issue }
          cards := t.cards
          draws := t.draws
          events := s.events ++ ev }

/-- The end of a command gives the frame to what its own rule left. -/
theorem finishCommand_frame {s u : State} {vs : List Byte} {ev : List Event} (status : Byte)
    {delay : Nat} (hvs : vs.length ≤ 128) (hev : .irq .mcu ∉ ev) (hd : delay = 1 ∨ delay = 30)
    (hu : u = { s with
      share := Memory.writeList s.share (portBIndex s.shareBank 0) vs
      lastCommand := u.lastCommand
      result0 := u.result0
      result1 := u.result1
      regs := u.regs
      cards := u.cards
      draws := u.draws
      events := s.events ++ ev }) :
    CommandFrame s (u.finishCommand status delay) := by
  refine ⟨vs, hvs, ev, hev, delay, hd, ?_⟩
  cases u
  simp only [State.mk.injEq] at hu
  simp only [State.finishCommand, State.setStatus, State.setReg, State.arm, hu]

theorem plainCommand_frame {cmd : Byte} {s t : State} (h : plainCommand cmd s = .next t) :
    CommandFrame s t := by
  cases h
  exact finishCommand_frame (vs := []) (ev := []) _ (by simp) (by simp) (.inl rfl)
    (by simp [State.beginCommand, State.resultIsCommand, Memory.writeList])

/-- Every command keeps the frame. -/
theorem exec_command_frame {i : Instr} {s t : State} (hi : i.format = .mcucmd)
    (h : exec i s = .next t) : CommandFrame s t := by
  cases i with
  | cready | cstub4 | cstub5 | cstub6 | cstub9 => exact plainCommand_frame h
  | echo =>
    cases h
    exact finishCommand_frame (vs := []) (ev := []) _ (by simp) (by simp) (.inr rfl)
      (by simp [State.beginCommand, Memory.writeList])
  | getres | ccheck | cident =>
    cases h
    exact finishCommand_frame (vs := []) (ev := []) _ (by simp) (by simp) (.inl rfl)
      (by simp [State.beginCommand, State.resultIsCommand, State.setReg, Memory.writeList])
  | unknown c a =>
    cases h
    exact finishCommand_frame (vs := []) (ev := [.unknownCommand (s.reg 0) (s.reg 1)]) _ (by simp)
      (by simp) (.inl rfl) (by simp [State.beginCommand, State.logUnknown, Memory.writeList])
  | shfill a =>
    simp only [exec, execShfill, shfillRam, Host.Outcome.next.injEq] at h
    subst h
    by_cases ha : a.arg2 = 2#8
    · exact finishCommand_frame (vs := List.replicate 128 a.arg3) (ev := []) _ (by simp) (by simp)
        (.inl rfl) (by simp [ha, State.beginCommand, State.resultIsCommand, State.portBWriteList])
    · exact finishCommand_frame (vs := []) (ev := []) _ (by simp) (by simp) (.inl rfl)
        (by simp [ha, State.beginCommand, State.resultIsCommand, Memory.writeList])
  | cread a =>
    simp only [exec, execCread] at h
    split_ifs at h with h1 h2
    · simp only [Host.Outcome.next.injEq] at h
      subst h
      exact finishCommand_frame (vs := creadBytes a s) (ev := []) _ (by simpa [creadBytes] using h2)
        (by simp) (.inl rfl)
        (by simp [State.beginCommand, State.resultIsCommand, State.portBWriteList, State.tick])
    · exact plainCommand_frame h
  | cwrite a =>
    simp only [exec, execCwrite] at h
    split_ifs at h with h1 h2
    · simp only [Host.Outcome.next.injEq] at h
      subst h
      obtain ⟨c, d, hw⟩ := cardWriteList_frame (cwriteBytes a s) (s.beginCommand 0xC3#8)
        (cardSlot a) (cardOffset a)
      rw [hw]
      exact finishCommand_frame (vs := []) (ev := []) _ (by simp) (by simp) (.inl rfl)
        (by simp [State.beginCommand, State.resultIsCommand, Memory.writeList])
    · exact plainCommand_frame h
  | cwrbyte a =>
    simp only [exec, execCwrbyte, Host.Outcome.next.injEq] at h
    subst h
    obtain ⟨c, d, hw⟩ : ∃ c d, (s.beginCommand 0xC8#8).cardWrite (cardSlot a) (cardOffset a) a.arg3 =
        { s.beginCommand 0xC8#8 with cards := c, draws := d } :=
      cardWriteList_frame [a.arg3] (s.beginCommand 0xC8#8) (cardSlot a) (cardOffset a)
    rw [hw]
    exact finishCommand_frame (vs := []) (ev := []) _ (by simp) (by simp) (.inl rfl)
      (by simp [State.beginCommand, State.resultIsCommand, Memory.writeList])
  | _ => simp [Instr.format] at hi

/-- A nonzero issue keeps the frame, whichever command it runs. -/
theorem exec_issue_frame {v : Word} {s t : State} (hv : v ≠ 0#32)
    (h : exec (.mcuIssue v) s = .next t) : CommandFrame s t := by
  have h' : execMcuIssue v s = .next t := h
  rw [execMcuIssue, if_neg hv, runCommand_eq_exec] at h'
  simpa [CommandFrame] using exec_command_frame (cmdOp_toInstr _ _).2.2 h'

end Sys2Proof.Machine
end

