-- ==== Sys2Proof/Laws/Fairness.lean ====
section
/-! SUPPORT. Laws/Fairness.lean: what the weak-fairness assumption of 70_reset_and_hazards.md R305 gives
a run. -/

namespace Sys2Proof.Machine

/-- A run of `n + 1` steps is a step and a run of `n`. -/
theorem runFor_succ {n : Nat} {s t : State} (h : runFor (n + 1) s = some t) :
    ∃ u, step s = .next u ∧ runFor n u = some t := by
  simp only [runFor] at h
  split at h
  · next u hu => exact ⟨u, hu, h⟩
  · cases h
  · cases h

/-- A step followed by a run of `n` is a run of `n + 1`. -/
theorem runFor_of_step {n : Nat} {s u : State} (h : step s = .next u) :
    runFor (n + 1) s = runFor n u := by simp only [runFor, h]

/-- In a run from a pending completion to an empty slot, some step empties the slot. -/
theorem slot_emptied_in_run {n : Nat} {s t : State} (h : runFor n s = some t)
    (hs : s.pendingEvent ≠ none) (ht : t.pendingEvent = none) :
    ∃ k u v, k < n ∧ runFor k s = some u ∧ u.pendingEvent ≠ none ∧ step u = .next v ∧
      v.pendingEvent = none := by
  induction n generalizing s with
  | zero => cases h; exact absurd ht hs
  | succ n ih =>
    obtain ⟨w, hw, hr⟩ := runFor_succ h
    by_cases hp : w.pendingEvent = none
    · exact ⟨0, s, w, Nat.succ_pos n, rfl, hs, hw, hp⟩
    · obtain ⟨k, u, v, hk, hu, hup, hv, hvp⟩ := ih hr hp
      exact ⟨k + 1, u, v, Nat.succ_lt_succ hk, (runFor_of_step hw).trans hu, hup, hv, hvp⟩

/-- R305 (c): where the slot is emptied only by a fire or a reset (the hypothesis, which is R219's
"Cancellation: none"), a completion pending in a weakly fair run raises its interrupt within the run,
unless a reset comes first. -/
theorem pending_fires_if_weaklyFair {s : State}
    (cancel : ∀ u v : State, resetNext u = false → u.pendingEvent ≠ none → step u = .next v →
      v.pendingEvent ≠ none ∨ v.events = u.events ++ [.irq .mcu])
    (fair : weaklyFair s) (hs : s.pendingEvent ≠ none) :
    ∃ k u v, k < s.schedule.length ∧ runFor k s = some u ∧ step u = .next v ∧
      (resetNext u = true ∨ v.events = u.events ++ [.irq .mcu]) := by
  obtain ⟨t, hr, ht⟩ := fair
  obtain ⟨k, u, v, hk, hu, hup, hv, hvp⟩ := slot_emptied_in_run hr hs ht
  refine ⟨k, u, v, hk, hu, hv, ?_⟩
  by_cases hre : resetNext u = true
  · exact .inl hre
  · exact .inr ((cancel u v (by simpa using hre) hup hv).resolve_left (fun h => h hvp))

end Sys2Proof.Machine
end

