-- ==== Sys2Proof/Laws/PerInstr.lean ====
section
/-! SUPPORT. Laws/PerInstr.lean: families of statements proved per operation. -/

namespace Sys2Proof.Laws

/-- An operation is encoded in exactly the format of its row in spec/opcode_table.json
(30_encoding.md R80). -/
def EncodedFormat.Statement (i : Instr) : Prop := (encode i).format = i.format

theorem EncodedFormat.enctabW (k : Byte) (v : Byte) : EncodedFormat.Statement (.enctabW k v) := rfl

theorem EncodedFormat.enctabR (k : Byte) : EncodedFormat.Statement (.enctabR k) := rfl

theorem EncodedFormat.dectrigR (width : Nat) : EncodedFormat.Statement (.dectrigR width) := rfl

theorem EncodedFormat.dectrigW (data : BusData) : EncodedFormat.Statement (.dectrigW data) := rfl

theorem EncodedFormat.sprkeyW (v : Word) : EncodedFormat.Statement (.sprkeyW v) := rfl

theorem EncodedFormat.sprkeyR (width : Nat) : EncodedFormat.Statement (.sprkeyR width) := rfl

theorem EncodedFormat.bankselW (data : BusData) : EncodedFormat.Statement (.bankselW data) := rfl

theorem EncodedFormat.bankselR (width : Nat) : EncodedFormat.Statement (.bankselR width) := rfl

theorem EncodedFormat.shareR (o : BitVec 7) : EncodedFormat.Statement (.shareR o) := rfl

theorem EncodedFormat.shareW (o : BitVec 7) (v : Byte) :
    EncodedFormat.Statement (.shareW o v) := rfl

theorem EncodedFormat.mcuregR (idx : Fin 8) : EncodedFormat.Statement (.mcuregR idx) := rfl

theorem EncodedFormat.mcuregW (idx : Fin 8) (v : Word) :
    EncodedFormat.Statement (.mcuregW idx v) := rfl

theorem EncodedFormat.mcuIssue (v : Word) : EncodedFormat.Statement (.mcuIssue v) := rfl

theorem EncodedFormat.mcuAck (v : Word) : EncodedFormat.Statement (.mcuAck v) := rfl

theorem EncodedFormat.rtcR : EncodedFormat.Statement (.rtcR) := rfl

theorem EncodedFormat.rtcW (data : BusData) : EncodedFormat.Statement (.rtcW data) := rfl

theorem EncodedFormat.inertR (width : Nat) : EncodedFormat.Statement (.inertR width) := rfl

theorem EncodedFormat.inertW (data : BusData) : EncodedFormat.Statement (.inertW data) := rfl

theorem EncodedFormat.wdeca (r : Region) (key : Half) :
    EncodedFormat.Statement (.wdeca r key) := rfl

theorem EncodedFormat.wdecb (r : Region) (key : Half) :
    EncodedFormat.Statement (.wdecb r key) := rfl

theorem EncodedFormat.crepack (r : Region) : EncodedFormat.Statement (.crepack r) := rfl

theorem EncodedFormat.modxor (r : Region) (m : Nat) (d : Half) :
    EncodedFormat.Statement (.modxor r m d) := rfl

theorem EncodedFormat.decryptTitle (tk : TitleKeys) :
    EncodedFormat.Statement (.decryptTitle tk) := rfl

theorem EncodedFormat.progdec : EncodedFormat.Statement (.progdec) := rfl

theorem EncodedFormat.getres (a : CmdArgs) : EncodedFormat.Statement (.getres a) := rfl

theorem EncodedFormat.echo (a : CmdArgs) : EncodedFormat.Statement (.echo a) := rfl

theorem EncodedFormat.shfill (a : CmdArgs) : EncodedFormat.Statement (.shfill a) := rfl

theorem EncodedFormat.ccheck (a : CmdArgs) : EncodedFormat.Statement (.ccheck a) := rfl

theorem EncodedFormat.cready (a : CmdArgs) : EncodedFormat.Statement (.cready a) := rfl

theorem EncodedFormat.cread (a : CmdArgs) : EncodedFormat.Statement (.cread a) := rfl

theorem EncodedFormat.cwrite (a : CmdArgs) : EncodedFormat.Statement (.cwrite a) := rfl

theorem EncodedFormat.cstub4 (a : CmdArgs) : EncodedFormat.Statement (.cstub4 a) := rfl

theorem EncodedFormat.cstub5 (a : CmdArgs) : EncodedFormat.Statement (.cstub5 a) := rfl

theorem EncodedFormat.cstub6 (a : CmdArgs) : EncodedFormat.Statement (.cstub6 a) := rfl

theorem EncodedFormat.cident (a : CmdArgs) : EncodedFormat.Statement (.cident a) := rfl

theorem EncodedFormat.cwrbyte (a : CmdArgs) : EncodedFormat.Statement (.cwrbyte a) := rfl

theorem EncodedFormat.cstub9 (a : CmdArgs) : EncodedFormat.Statement (.cstub9 a) := rfl

theorem EncodedFormat.unknown (cmd : Byte) (a : CmdArgs) :
    EncodedFormat.Statement (.unknown cmd a) := rfl

theorem EncodedFormat.timerFire : EncodedFormat.Statement (.timerFire) := rfl

theorem EncodedFormat.frameTick : EncodedFormat.Statement (.frameTick) := rfl

end Sys2Proof.Laws
end

