-- ==== Sys2Proof/Laws/Step.lean ====
section
/-! SUPPORT. Laws/Step.lean: what one step can do, said once. -/

namespace Sys2Proof.Machine

/-- A step that answers a next state either had nothing to do, or ran the operation it presents (its
agent being enabled), or was a card's coming or going, or a reset. -/
theorem step_cases {s t : State} (h : step s = .next t) :
    (s.schedule = [] ∧ t = s) ∨
    (∃ addr access rest, s.schedule = .bus addr access :: rest ∧
      routeAddress Config.cfg.busMap addr = none ∧ t = { s with schedule := rest }) ∨
    (∃ inp rest i, s.schedule = inp :: rest ∧ inp ≠ .warmReset ∧
      (∀ im tk, inp ≠ .coldReset im tk) ∧ presented s = some i ∧
      agentGuard i { s with schedule := rest } = none ∧
      exec i { s with schedule := rest } = .next t) ∨
    (∃ slot image rest, s.schedule = .insertCard slot image :: rest ∧
      s.cardPresent slot = false ∧
      t = { s with schedule := rest, cards := s.cards.set slot (some image) }) ∨
    (∃ slot rest, s.schedule = .removeCard slot :: rest ∧ s.cardPresent slot = true ∧
      t = { s with schedule := rest, cards := s.cards.set slot none }) ∨
    (∃ rest, s.schedule = .warmReset :: rest ∧ t = warmReset { s with schedule := rest }) ∨
    (∃ images title rest rom, s.schedule = .coldReset images title :: rest ∧
      loadImages Config.cfg.romWordOrder images = some rom ∧
      t = coldReset rom title { s with schedule := rest }) := by
  have packet : ∀ (inp : Input) (rest : List Input) (p : Packet), s.schedule = inp :: rest →
      inp ≠ .warmReset → (∀ im tk, inp ≠ .coldReset im tk) →
      fetch s = .packet p { s with schedule := rest } →
      ∃ inp rest i, s.schedule = inp :: rest ∧ inp ≠ .warmReset ∧
        (∀ im tk, inp ≠ .coldReset im tk) ∧ presented s = some i ∧
        agentGuard i { s with schedule := rest } = none ∧
        exec i { s with schedule := rest } = .next t := by
    intro inp rest p hs hw hc hf
    simp only [step, hf, runPacket] at h
    split at h
    · cases h
    · next i hd =>
      split at h
      · cases h
      · next hg => exact ⟨inp, rest, i, hs, hw, hc, by simp [presented, hf, hd], hg, h⟩
  match hs : s.schedule with
  | [] =>
    simp only [step, fetch, hs, Host.Outcome.next.injEq] at h
    exact .inl ⟨rfl, h.symm⟩
  | .op p :: rest =>
    exact .inr (.inr (.inl (hs ▸ packet _ rest p hs (by simp) (by simp) (by simp [fetch, hs]))))
  | .bus addr access :: rest =>
    match hr : routeAddress Config.cfg.busMap addr with
    | some (w, off) =>
      exact .inr (.inr (.inl (hs ▸ packet _ rest _ hs (by simp) (by simp)
        (by simp only [fetch, hs, hr]; rfl))))
    | none =>
      simp only [step, fetch, hs, hr, Host.Outcome.next.injEq] at h
      exact .inr (.inl ⟨addr, access, rest, rfl, hr, h.symm⟩)
  | .insertCard slot image :: rest =>
    simp only [step, fetch, hs, insertCard] at h
    split at h
    · cases h
    · next hp =>
      simp only [Host.Outcome.next.injEq] at h
      exact .inr (.inr (.inr (.inl ⟨slot, image, rest, rfl, by simpa [State.cardPresent] using hp,
        h.symm⟩)))
  | .removeCard slot :: rest =>
    simp only [step, fetch, hs, removeCard] at h
    split at h
    · next hp =>
      simp only [Host.Outcome.next.injEq] at h
      exact .inr (.inr (.inr (.inr (.inl ⟨slot, rest, rfl, hp, h.symm⟩))))
    · cases h
  | .warmReset :: rest =>
    simp only [step, fetch, hs, Host.Outcome.next.injEq] at h
    exact .inr (.inr (.inr (.inr (.inr (.inl ⟨rest, rfl, h.symm⟩)))))
  | .coldReset images title :: rest =>
    simp only [step, fetch, hs, coldResetImages] at h
    split at h
    · next rom hl =>
      simp only [Host.Outcome.next.injEq] at h
      exact .inr (.inr (.inr (.inr (.inr (.inr ⟨images, title, rest, rom, rfl, hl, h.symm⟩)))))
    · cases h

end Sys2Proof.Machine
end

