-- ==== Sys2Proof/Tests/Slice0.lean ====
section
/-! SUPPORT. Tests/Slice0.lean: tests of the model on fixed values, taken from the spec's encodings
(30_encoding.md) and from the worked examples and vectors of 95_test_vectors.md, and a witness for
the hypotheses of each statement. -/

namespace Sys2Proof.Tests

open Sys2Proof.Machine Sys2Proof.Claims

/-! ### WellFormed: each check refuses an ill-formed term -/

theorem test_wf_dectrig_read_no_bytes : (Instr.dectrigR 0).wellFormed = false := by decide
theorem test_wf_sprkey_read_no_bytes : (Instr.sprkeyR 0).wellFormed = false := by decide
theorem test_wf_banksel_read_no_bytes : (Instr.bankselR 0).wellFormed = false := by decide
theorem test_wf_inert_read_no_bytes : (Instr.inertR 0).wellFormed = false := by decide
theorem test_wf_dectrig_write_no_bytes : (Instr.dectrigW []).wellFormed = false := by decide
theorem test_wf_banksel_write_no_bytes : (Instr.bankselW []).wellFormed = false := by decide
theorem test_wf_rtc_write_no_bytes : (Instr.rtcW []).wellFormed = false := by decide
theorem test_wf_inert_write_no_bytes : (Instr.inertW []).wellFormed = false := by decide
theorem test_wf_mcureg_write_issue_strobe : (Instr.mcuregW 2 1#32).wellFormed = false := by decide
theorem test_wf_mcureg_write_ack_strobe : (Instr.mcuregW 5 1#32).wellFormed = false := by decide
theorem test_wf_unknown_listed :
    listedCommands.all (fun c => !(Instr.unknown c ⟨0#8, 0#8, 0#8⟩).wellFormed) = true := by decide

/-! ### Decode: one packet per operation, written out from 30_encoding.md -/

/-- A host read `(window, offset, R, width)`. -/
def hostRead (w : Window) (off width : Nat) : Packet := .hostbus ⟨w, off, .read width⟩

/-- A host write `(window, offset, W, width, bytes)`. -/
def hostWrite (w : Window) (off : Nat) (data : List Byte) : Packet := .hostbus ⟨w, off, .write data⟩

/-- The argument bytes `11 22 33`. -/
def args : CmdArgs := ⟨0x11#8, 0x22#8, 0x33#8⟩

theorem test_decode_enctabW :
    decode (hostWrite .enctab 0xFF [0x5A#8]) = .ok (.enctabW 0xFF#8 0x5A#8) := by decide
theorem test_decode_enctabR : decode (hostRead .enctab 0x80 1) = .ok (.enctabR 0x80#8) := by decide
theorem test_decode_dectrigR : decode (hostRead .dectrig 0 2) = .ok (.dectrigR 2) := by decide
theorem test_decode_dectrigW :
    decode (hostWrite .dectrig 0 [1#8]) = .ok (.dectrigW [1#8]) := by decide
theorem test_decode_sprkeyW :
    decode (hostWrite .sprkey 0 [0x78#8, 0x56#8, 0x34#8, 0x12#8]) = .ok (.sprkeyW 0x12345678#32) := by
  decide
theorem test_decode_sprkeyR : decode (hostRead .sprkey 0 4) = .ok (.sprkeyR 4) := by decide
theorem test_decode_bankselW :
    decode (hostWrite .banksel 0 [3#8]) = .ok (.bankselW [3#8]) := by decide
theorem test_decode_bankselR : decode (hostRead .banksel 0 1) = .ok (.bankselR 1) := by decide
theorem test_decode_shareR : decode (hostRead .share 127 1) = .ok (.shareR 127#7) := by decide
theorem test_decode_shareW :
    decode (hostWrite .share 5 [0x77#8]) = .ok (.shareW 5#7 0x77#8) := by decide
/-- `0x3F8A0 >> 15` is 7: the low fifteen bits are ignored. -/
theorem test_decode_mcuregR : decode (hostRead .mcureg 0x3F8A0 4) = .ok (.mcuregR 7) := by decide
theorem test_decode_mcuregW :
    decode (hostWrite .mcureg 0x18000 [0xFF#8, 0xFF#8, 0xFF#8, 0x7F#8])
      = .ok (.mcuregW 3 0x7FFFFFFF#32) := by decide
theorem test_decode_mcuIssue :
    decode (hostWrite .mcureg 0x10000 [1#8, 0#8, 0#8, 0#8]) = .ok (.mcuIssue 1#32) := by decide
theorem test_decode_mcuAck :
    decode (hostWrite .mcureg 0x28000 [1#8, 0#8, 0#8, 0#8]) = .ok (.mcuAck 1#32) := by decide
theorem test_decode_rtcR : decode (hostRead .rtc 0 4) = .ok .rtcR := by decide
theorem test_decode_rtcW : decode (hostWrite .rtc 0 [1#8, 2#8]) = .ok (.rtcW [1#8, 2#8]) := by decide
theorem test_decode_inertR : decode (hostRead .inert 0x1234 4) = .ok (.inertR 4) := by decide
theorem test_decode_inertW : decode (hostWrite .inert 8 [9#8]) = .ok (.inertW [9#8]) := by decide
theorem test_decode_wdeca :
    decode (.engine .wdeca [.region .spriteMask, .half 0x5A5A#16])
      = .ok (.wdeca .spriteMask 0x5A5A#16) := by decide
theorem test_decode_wdecb :
    decode (.engine .wdecb [.region .spriteColor, .half 0xFF#16])
      = .ok (.wdecb .spriteColor 0xFF#16) := by decide
theorem test_decode_crepack :
    decode (.engine .crepack [.region .spriteColor]) = .ok (.crepack .spriteColor) := by decide
theorem test_decode_modxor :
    decode (.engine .modxor [.region .program, .nat 2, .half 0xFFFF#16])
      = .ok (.modxor .program 2 0xFFFF#16) := by decide
theorem test_decode_progdec : decode (.engine .progdec []) = .ok .progdec := by decide
theorem test_decode_getres : decode (.mcucmd 0x332211F6#32) = .ok (.getres args) := by decide
theorem test_decode_echo : decode (.mcucmd 0x332211E0#32) = .ok (.echo args) := by decide
theorem test_decode_shfill : decode (.mcucmd 0x332211E1#32) = .ok (.shfill args) := by decide
theorem test_decode_ccheck : decode (.mcucmd 0x332211C0#32) = .ok (.ccheck args) := by decide
theorem test_decode_cready : decode (.mcucmd 0x332211C1#32) = .ok (.cready args) := by decide
theorem test_decode_cread : decode (.mcucmd 0x332211C2#32) = .ok (.cread args) := by decide
theorem test_decode_cwrite : decode (.mcucmd 0x332211C3#32) = .ok (.cwrite args) := by decide
theorem test_decode_cstub4 : decode (.mcucmd 0x332211C4#32) = .ok (.cstub4 args) := by decide
theorem test_decode_cstub5 : decode (.mcucmd 0x332211C5#32) = .ok (.cstub5 args) := by decide
theorem test_decode_cstub6 : decode (.mcucmd 0x332211C6#32) = .ok (.cstub6 args) := by decide
theorem test_decode_cident : decode (.mcucmd 0x332211C7#32) = .ok (.cident args) := by decide
theorem test_decode_cwrbyte : decode (.mcucmd 0x332211C8#32) = .ok (.cwrbyte args) := by decide
theorem test_decode_cstub9 : decode (.mcucmd 0x332211C9#32) = .ok (.cstub9 args) := by decide
theorem test_decode_unknown : decode (.mcucmd 0x33221100#32) = .ok (.unknown 0#8 args) := by decide
theorem test_decode_timerFire : decode (.event .timerFire) = .ok .timerFire := by decide
theorem test_decode_frameTick : decode (.event .frameTick) = .ok .frameTick := by decide

/-- The packets that the spec gives no operation (20_memory.md R54, R55, R61; 43_share_ram.md R177;
93_implementation_defined.md U7). -/
theorem test_decode_refusals :
    decode (hostRead .share 128 1) = .error .shareOffset ∧
      decode (hostWrite .share 0 [1#8, 2#8]) = .error (.widthNotAdmitted .share) ∧
      decode (hostRead .enctab 256 1) = .error (.offsetOutsideWindow .enctab) ∧
      decode (hostRead .mcureg 0 2) = .error (.widthNotAdmitted .mcureg) ∧
      decode (hostWrite .sprkey 0 [1#8]) = .error (.widthNotAdmitted .sprkey) ∧
      decode (hostRead .inert 0 0) = .error .emptyAccess ∧
      decode (hostWrite .sprkey 2 [1#8, 0#8, 0#8, 0#8]) = .error (.misaligned .sprkey) ∧
      decode (hostRead .rtc 1 4) = .error (.misaligned .rtc) ∧
      decode (.engine .progdec [.nat 1]) = .error (.engineOperands .progdec) := by decide

/-- Register numbers and command words read from the opcode table's numbers (30_encoding.md R98). -/
theorem test_table_words :
    decodeTableWord 24 0x10000 = some (.mcuIssue 0#32) ∧
      decodeTableWord 24 0x28000 = some (.mcuAck 0#32) ∧
      decodeTableWord 24 0x2FFFF = some (.mcuAck 0#32) ∧
      decodeTableWord 24 0x08000 = some (.mcuregW 1 0#32) ∧
      decodeTableWord 8 0xC1 = some (.cready ⟨0#8, 0#8, 0#8⟩) ∧
      decodeTableWord 32 0xAA0200E1 = some (.shfill ⟨0#8, 2#8, 0xAA#8⟩) ∧
      decodeTableWord 32 0 = some (.unknown 0#8 ⟨0#8, 0#8, 0#8⟩) ∧
      decodeTableWord 8 0 = none := by decide

/-! ### The Bit-Transform Library: `CFG_TEST` of 95_test_vectors.md part 2 -/

/-- `PBR`: the bit order reversed inside each byte. -/
def pbrFun (p : Fin 16) : Fin 16 := if p.val < 8 then 7 - p else 23 - p

def pbr : Perm16 := ⟨pbrFun, pbrFun, by decide, by decide⟩

/-- `PERM_COLOR`: rotate left by 4. -/
def rol4 : Perm16 := ⟨fun p => p - 4, fun p => p + 4, by decide, by decide⟩

def cfgA : DecoderCfg :=
  { phase := 0, shift := 1, xtab := fun b => 1#16 <<< b.val, perm := pbr }

def cfgB : DecoderCfg :=
  { phase := 1, shift := 1, xtab := fun b => 0x8000#16 >>> b.val, perm := pbr }

/-- The test buffer `T8`. -/
def t8 : List Half :=
  [0x1234#16, 0xABCD#16, 0x0000#16, 0xFFFF#16, 0x8001#16, 0x7FFE#16, 0x00FF#16, 0xFF00#16]

/-- Vectors V-T1, V-T2, V-T5, V-T6, V-T10, V-T12. -/
theorem test_permute16 :
    permute16 pbr 0x0001#16 = 0x0080#16 ∧ permute16 pbr 0x8000#16 = 0x0100#16 ∧
      permute16 pbr 0x1234#16 = 0x482C#16 ∧ permute16 pbr 0xABCD#16 = 0xD5B3#16 ∧
      permute16 rol4 0x0001#16 = 0x0010#16 ∧ permute16 rol4 0x1234#16 = 0x2341#16 := by
  decide +kernel

/-- Vectors V-T20 to V-T27. -/
theorem test_posmask :
    [0, 2, 3, 4, 7, 2048, 4095, 4096, 4098].map (posmask cfgA) =
        [0x0000#16, 0x0001#16, 0x0001#16, 0x0002#16, 0x0003#16, 0x0400#16, 0x07FF#16, 0x0000#16,
          0x0001#16] ∧
      [0, 2, 3, 4, 7, 2048, 4095, 4096, 4098].map (posmask cfgB) =
        [0x0000#16, 0x8000#16, 0x8000#16, 0x4000#16, 0xC000#16, 0x0020#16, 0xFFE0#16, 0x0000#16,
          0x8000#16] := by
  decide +kernel

/-- Vectors V-T31, V-T33, V-T35, V-T37. -/
theorem test_wdec :
    wdec cfgA 0x5A5A#16 t8 =
        [0x1276#16, 0xABCD#16, 0x5ADA#16, 0xFFFF#16, 0x5B9A#16, 0x7FFE#16, 0x5A65#16, 0xFF00#16] ∧
      wdec cfgB 0xFFFF#16 t8 =
        [0x1234#16, 0x2A4C#16, 0x0000#16, 0x0100#16, 0x8001#16, 0x0380#16, 0x00FF#16, 0x03FF#16] ∧
      wdec cfgB 0x0000#16 (t8.take 5) =
        [0x1234#16, 0xD5B3#16, 0x0000#16, 0xFEFF#16, 0x8001#16] ∧
      wdec cfgB 0x000F#16 [0x00F0#16] = [0x00F0#16] := by
  decide +kernel

/-- Vector V-T50. -/
theorem test_repack :
    repack rol4 t8 =
      [0x2341#16, 0xBCDA#16, 0x0000#16, 0xFFFF#16, 0x0018#16, 0xFFE7#16, 0x0FF0#16, 0xF00F#16] := by
  decide +kernel

/-- Vectors V-T60, V-T64, V-T65, V-T66, V-T67. -/
theorem test_modXor :
    modXor 1 0x00FF#16 t8 =
        some [0xAB32#16, 0x12CB#16, 0xFF00#16, 0x00FF#16, 0x7F01#16, 0x80FE#16, 0xFFFF#16,
          0x0000#16] ∧
      modXor 7 0x0000#16 t8 = some t8.reverse ∧
      modXor 1 0x0000#16 (t8.take 6) =
        some [0xABCD#16, 0x1234#16, 0xFFFF#16, 0x0000#16, 0x7FFE#16, 0x8001#16] ∧
      modXor 5 0x0000#16 (t8.take 6) = none ∧ modXor 8 0x0000#16 t8 = none := by
  decide +kernel

/-- `CFG_TEST` as a whole, its cipher under the key `K`. A key is opaque in the model, so the cipher
takes its number from here and not from its argument. -/
def cfgTest (K : Nat) : Cfg :=
  { (default : Cfg) with
    wdecA := cfgA
    wdecB := cfgB
    permColor := rol4
    cipherWord := fun T _ B i =>
      B.getD i 0#16 ^^^ (T.getD ((i + K + 1) % 256) 0#8 ++ T.getD ((i + K) % 256) 0#8)
    moduleRegion := .program }

/-- Vectors V-P1 and V-P2. -/
theorem test_progCipher :
    progCipher (cfgTest 3) ((List.range 256).map (BitVec.ofNat 8)) 0
        [0x0000#16, 0xFFFF#16, 0x1234#16, 0xBEEF#16] =
        [0x0403#16, 0xFAFB#16, 0x1431#16, 0xB9E9#16] ∧
      progCipher (cfgTest 255) ((List.range 256).map (BitVec.ofNat 8)) 0 [0x0000#16, 0x0000#16] =
        [0x00FF#16, 0x0100#16] := by
  decide +kernel

/-- The ROM images of programs P1 to P5. -/
def romTest : RomBank :=
  { program := [0x0000#16, 0xFFFF#16, 0x1234#16, 0xBEEF#16]
    spriteMask := [0x1234#16, 0xABCD#16, 0x0000#16, 0xFFFF#16]
    spriteColor := [0x1234#16, 0xABCD#16, 0x0000#16, 0xFFFF#16]
    tile := [0xAAAA#16] }

/-- The title of programs P1 to P4. -/
def titleTest : TitleKeys :=
  { moduleLayer := none, maskKey := 0x5A5A#16, colorKey := 0#16, predecrypted := false, subKey := 3 }

/-- The title of program P5. -/
def titleModule : TitleKeys :=
  { moduleLayer := some (2, 0xFFFF#16), maskKey := 0#16, colorKey := 0#16, predecrypted := true,
    subKey := 0 }

theorem test_decode_decryptTitle :
    decode (.engine .decryptTitle [.title titleTest]) = .ok (.decryptTitle titleTest) := rfl

/-- Program P1 step 1. -/
theorem test_decryptTitle :
    decryptTitleRom (cfgTest 3) titleTest romTest = some { romTest with
      spriteMask := [0x1276#16, 0xABCD#16, 0x5ADA#16, 0xFFFF#16]
      spriteColor := [0x2341#16, 0x5B3D#16, 0x0000#16, 0xEFFF#16] } := by
  decide +kernel

/-- Program P5 step 1. -/
theorem test_decryptTitle_module :
    decryptTitleRom (cfgTest 0) titleModule romTest = some { romTest with
      program := [0xEDCB#16, 0x4110#16, 0xFFFF#16, 0x0000#16]
      spriteMask := [0x482C#16, 0xABCD#16, 0x0080#16, 0xFFFF#16]
      spriteColor := [0x2341#16, 0x5B3D#16, 0x0000#16, 0xEFFF#16] } := by
  decide +kernel

/-- `reverse32` and vectors V-K1, V-K4, V-K6. -/
theorem test_reverse32 :
    reverse32 0x12345678#32 = 0x1E6A2C48#32 ∧ reverse32 0x0000FFFF#32 = 0xFFFF0000#32 ∧
      reverse32 (0x00000000#32 ^^^ Config.sprkeyMask) = 0xAAAAA009#32 ∧
      reverse32 (0x00000001#32 ^^^ Config.sprkeyMask) = 0x2AAAA009#32 ∧
      reverse32 (0x12345678#32 ^^^ Config.sprkeyMask) = 0xB4C08C41#32 := by
  decide +kernel

/-- The word order of an image (20_memory.md R52), and an odd length (U15). -/
theorem test_image_words :
    wordsOfImage .little [0x34#8, 0x12#8, 0xCD#8, 0xAB#8] = some [0x1234#16, 0xABCD#16] ∧
      wordsOfImage .big [0x34#8, 0x12#8] = some [0x3412#16] ∧
      wordsOfImage .little [0x34#8] = none := by decide

/-! ### Operations on small states -/

/-- The next state, if there is one. -/
def after (a : Answer) : Option State :=
  match a with
  | .next t => some t
  | _ => none

/-- The name of the refusal, if there is one. -/
def refusal (a : Answer) : Option Refusal :=
  match a with
  | .refused r => some r
  | _ => none

/-- After the boot step, with the ROM and the title of program P1. -/
def booted : State :=
  { State.reset with bootDone := true, rom := romTest, title := titleTest }

/-- `booted` with the command word `w` in `REG[0]` and `v` in `REG[1]`. -/
def loaded (w v : Word) : State := (booted.setReg 0 w).setReg 1 v

/-- A 64-byte card with `card[i] = 10 + i` in slot 0 and the MCU on bank 0 (program P4). -/
def cardState (w : Word) : State :=
  { loaded w 0#32 with
    cards := #v[some ((List.range 64).map fun i => BitVec.ofNat 8 (0x10 + i)), none, none, none]
    shareBank := 1#1 }

/-- One field of the state after an operation. -/
def see {α : Type} (i : Instr) (s : State) (f : State → α) : Option α := (after (exec i s)).map f

theorem test_enctabW_then_read :
    (((after (exec (.enctabW 0x10#8 0xA5#8) booted)).bind fun t =>
      see (.enctabR 0x10#8) t (·.readData))) = some (some [0xA5#8]) := by decide
theorem test_enctabW_replaces :
    see (.enctabW 3#8 7#8) { booted with encTab := [(1, 2#8), (3, 4#8), (9, 5#8)] } (·.encTab)
      = some [(1, 2#8), (3, 7#8), (9, 5#8)] := by decide
theorem test_dectrigR_no_trigger :
    see (.dectrigR 4) booted (fun t => (t.decryptFlag, t.rom)) = some (false, romTest) := by decide
theorem test_dectrigW_sets_flag :
    see (.dectrigW [0#8]) booted (fun t => (t.decryptFlag, t.rom.program.length, t.rom.spriteMask))
      = some (true, 4, romTest.spriteMask) := by decide
theorem test_dectrigW_second_does_nothing :
    see (.dectrigW [1#8]) { booted with decryptFlag := true } (·.rom) = some romTest := by decide
/-- Vector V-K6. -/
theorem test_sprkeyW :
    see (.sprkeyW 0x12345678#32) booted (fun t => (t.rawKey, t.realKey))
      = some (0x12345678#32, 0xB4C08C41#32) := by decide +kernel
/-- Vector V-K9, program P5 step 4. -/
theorem test_sprkeyW_predecrypted :
    see (.sprkeyW 0x12345678#32) { booted with title := titleModule }
      (fun t => (t.rawKey, t.realKey)) = some (0x12345678#32, 0#32) := by decide
theorem test_sprkeyR_keeps_keys :
    see (.sprkeyR 4) { booted with rawKey := 5#32, realKey := 6#32 }
      (fun t => (t.rawKey, t.realKey, (t.readData.getD []).length)) = some (5#32, 6#32, 4) := by
  decide
/-- Vector V-S8. -/
theorem test_bankselW_even :
    see (.bankselW [0xFE#8, 0xFF#8, 0xFF#8, 0xFF#8]) { booted with shareBank := 1#1 } (·.shareBank)
      = some 0#1 := by decide
/-- Vector V-S9. -/
theorem test_bankselW_odd : see (.bankselW [3#8]) booted (·.shareBank) = some 1#1 := by decide
theorem test_bankselR_keeps_bank :
    see (.bankselR 1) { booted with shareBank := 1#1 } (·.shareBank) = some 1#1 := by decide
/-- Vector V-S6: the host's offset 127 on bank 1 is physical 255. -/
theorem test_shareW_bank1 :
    see (.shareW 127#7 0x77#8) { booted with shareBank := 1#1 } (·.share)
      = some [(255, 0x77#8)] := by decide
theorem test_shareR_bank1 :
    see (.shareR 5#7) { booted with share := [(5, 1#8), (133, 2#8)], shareBank := 1#1 } (·.readData)
      = some (some [2#8]) := by decide
/-- Vector V-D5. -/
theorem test_mcuregW_then_read :
    ((after (exec (.mcuregW 6 0xDEADBEEF#32) booted)).bind fun t =>
      see (.mcuregR 6) t (·.readData)) = some (some [0xEF#8, 0xBE#8, 0xAD#8, 0xDE#8]) := by decide
theorem test_mcuregW_triggers_nothing :
    see (.mcuregW 0 0xE0#32) booted (fun t => (t.lastCommand, t.pendingEvent))
      = some (0#8, none) := by decide
/-- Vector V-M1. -/
theorem test_issue_echo :
    see (.mcuIssue 1#32) (loaded 0x112233E0#32 0xCAFEBABE#32)
      (fun t => (t.reg 3, t.result0, t.result1, t.lastCommand, t.pendingEvent))
      = some (0x00F70000#32, 0x112233E0#32, 0xCAFEBABE#32, 0xE0#8, some ⟨30, .issue⟩) := by decide
/-- Vector V-M8. -/
theorem test_issue_zero :
    see (.mcuIssue 0#32) (loaded 0x112233E0#32 0#32)
      (fun t => (t.reg 2, t.reg 3, t.lastCommand, t.pendingEvent))
      = some (0#32, 0#32, 0#8, none) := by decide
/-- Program P2 step 10, but for the OPEN value of the status. -/
theorem test_ack :
    see (.mcuAck 1#32) { booted with lastCommand := 0xE1#8 }
      (fun t => (t.reg 5, t.lastCommand, t.pendingEvent))
      = some (1#32, 0#8, some ⟨100, .ack⟩) := by decide
/-- Program P3 step 7. -/
theorem test_ack_nothing_outstanding :
    see (.mcuAck 1#32) { booted with pendingEvent := some ⟨30, .issue⟩ }
      (fun t => (t.reg 5, t.reg 3, t.pendingEvent)) = some (1#32, 0#32, some ⟨30, .issue⟩) := by decide
theorem test_rtcW_ignored :
    see (.rtcW [1#8]) booted (fun t => (t.rtcLast, t.draws)) = some (0#32, 0) := by decide
theorem test_rtcR_answers_four_bytes :
    see .rtcR booted (fun t => (t.readData.getD []).length) = some 4 := by decide
theorem test_inertR_answers_its_width :
    see (.inertR 2) booted (fun t => (t.readData.getD []).length) = some 2 := by decide
theorem test_inertW_ignored : see (.inertW [1#8]) booted (·.draws) = some 0 := by decide
/-- Vector V-T38 and its like: an empty buffer stays empty. -/
theorem test_engine_on_empty_buffers :
    see (.wdeca .tile 1#16) State.reset (·.rom.tile) = some [] ∧
      see (.wdecb .tile 1#16) State.reset (·.rom.tile) = some [] ∧
      see (.crepack .tile) State.reset (·.rom.tile) = some [] := by decide
/-- Program P5's module layer: the other buffers stay. -/
theorem test_modxor :
    see (.modxor .program 2 0xFFFF#16) booted (·.rom)
      = some { romTest with program := [0xEDCB#16, 0x4110#16, 0xFFFF#16, 0x0000#16] } := by decide
theorem test_modxor_refused :
    refusal (exec (.modxor .program 4 0#16) booted) = some .moduleOutsideBuffer := by decide
theorem test_decryptTitle_sets_boot :
    see (.decryptTitle titleTest) { booted with bootDone := false }
      (fun t => (t.bootDone, t.rom.program)) = some (true, romTest.program) := by decide
theorem test_decryptTitle_second_refused :
    refusal (exec (.decryptTitle titleTest) booted) = some .titleAlreadyDecrypted := by decide
theorem test_progdec_sets_no_flag :
    see .progdec booted (fun t => (t.decryptFlag, t.rom.program.length)) = some (false, 4) := by decide
/-- Program P2 step 12. -/
theorem test_getres :
    see (.getres ⟨0#8, 0#8, 0#8⟩) { booted with result0 := 0xE1#32, lastCommand := 0xE1#8 }
      (fun t => (t.reg 3, t.reg 4, t.lastCommand, t.pendingEvent))
      = some (0x00F700E1#32, 0#32, 0#8, some ⟨1, .issue⟩) := by decide
/-- Program P3 step 9: the status takes byte 2 of the echoed word. -/
theorem test_getres_after_echo :
    see (.getres ⟨0#8, 0#8, 0#8⟩)
      { booted with result0 := 0x112233E0#32, result1 := 0xCAFEBABE#32 }
      (fun t => (t.reg 3, t.reg 4)) = some (0x11F733E0#32, 0xCAFEBABE#32) := by decide
/-- Vector V-M2 at three bytes of the opposite bank and one of the host's. -/
theorem test_shfill :
    see (.shfill ⟨0#8, 2#8, 0xAA#8⟩) { booted with share := [(127, 0x10#8)] }
      (fun t => (t.shareByte 127, t.shareByte 128, t.shareByte 200, t.shareByte 255))
      = some (0x10#8, 0xAA#8, 0xAA#8, 0xAA#8) := by decide +kernel
/-- Vector V-M3. -/
theorem test_shfill_other_mode :
    see (.shfill ⟨0#8, 3#8, 0x55#8⟩) { booted with result1 := 9#32 }
      (fun t => (t.share, t.result0, t.result1)) = some ([], 0xE1#32, 0#32) := by decide
/-- Vector V-M4 and worked example E5. -/
theorem test_ccheck :
    see (.ccheck ⟨1#8, 0#8, 0#8⟩) (cardState 0#32) (fun t => (t.reg 3, t.result0, t.lastCommand))
        = some (0x00F40000#32, 0xC0#32, 0xC0#8) ∧
      see (.ccheck ⟨0#8, 0#8, 0#8⟩) (cardState 0#32) (·.reg 3) = some 0x00F70000#32 := by decide
/-- Vectors V-M9 and V-D6. -/
theorem test_cready :
    see (.cready ⟨1#8, 0#8, 0#8⟩) (booted.setReg 3 0xFFFFFFFF#32) (fun t => (t.reg 3, t.result0))
      = some (0xFFF7FFFF#32, 0xC1#32) := by decide
/-- Program P4 step 4. -/
theorem test_cread :
    see (.cread ⟨0#8, 2#8, 4#8⟩) (cardState 0#32) (fun t => (t.share, t.result0, t.reg 3))
      = some ([(0, 0x12#8), (1, 0x13#8), (2, 0x14#8), (3, 0x15#8)], 0xC2#32, 0x00F70000#32) := by
  decide
/-- Vector V-M12. -/
theorem test_cread_too_long :
    refusal (exec (.cread ⟨0#8, 0#8, 0xFF#8⟩) (cardState 0#32)) = some .copyBeyondBank := by decide
/-- Program P4 step 8. -/
theorem test_cwrite :
    (see (.cwrite ⟨0#8, 0x20#8, 3#8⟩)
      { cardState 0#32 with share := [(0, 0xAA#8), (1, 0xBB#8), (2, 0xCC#8)] }
      (fun t => t.cards[0].map fun card => (card.drop 0x1F).take 5))
      = some (some [0x2F#8, 0xAA#8, 0xBB#8, 0xCC#8, 0x33#8]) := by decide
theorem test_cwrite_empty_slot :
    see (.cwrite ⟨1#8, 0#8, 0xFF#8⟩) (cardState 0#32) (fun t => (t.result0, t.reg 3))
      = some (0xC3#32, 0x00F70000#32) := by decide
/-- Vector V-M10. -/
theorem test_stubs :
    (see (.cstub4 args) booted (·.result0), see (.cstub5 args) booted (·.result0),
        see (.cstub6 args) booted (·.result0), see (.cstub9 args) booted (·.result0))
      = (some 0xC4#32, some 0xC5#32, some 0xC6#32, some 0xC9#32) := by decide
/-- Vector V-M5. -/
theorem test_cident :
    see (.cident args) booted (fun t => (t.result0, t.result1, t.reg 3))
      = some (0xC7#32, 0xF81F0000#32, 0x00F70000#32) := by decide
/-- Program P4 step 9. -/
theorem test_cwrbyte :
    (see (.cwrbyte ⟨0#8, 0x3F#8, 0x5A#8⟩) (cardState 0#32)
      (fun t => t.cards[0].map fun card => card.drop 0x3E)) = some (some [0x4E#8, 0x5A#8]) := by
  decide
/-- Vector V-M6. -/
theorem test_unknown :
    see (.unknown 0xFF#8 ⟨0#8, 0#8, 0#8⟩) { loaded 0xFF#32 0#32 with result0 := 0xC7#32 }
      (fun t => (t.reg 3, t.result0, t.lastCommand, t.events))
      = some (0x00F40000#32, 0xC7#32, 0xFF#8, [.unknownCommand 0xFF#32 0#32]) := by decide
/-- Program P2 step 6. -/
theorem test_timerFire :
    see .timerFire { booted with pendingEvent := some ⟨1, .issue⟩ }
      (fun t => (t.pendingEvent, t.events)) = some (none, [.irq .mcu]) := by decide
theorem test_timerFire_not_armed : refusal (exec .timerFire booted) = some .timerNotArmed := by decide
theorem test_frameTick :
    see .frameTick { booted with pendingEvent := some ⟨1, .issue⟩ }
      (fun t => (t.pendingEvent, t.events)) = some (some ⟨1, .issue⟩, [.irq .frame]) := by decide

/-! ### Steps -/

/-- One field of the state after a step. -/
def seeStep {α : Type} (s : State) (f : State → α) : Option α := (after (step s)).map f

/-- A command word of the opcode table runs as the first operation after reset. -/
theorem test_withFetchWord_command :
    seeStep (State.reset.withFetchWord 32 0x112233E0)
      (fun t => (t.lastCommand, t.result0, t.reg 3, t.schedule))
      = some (0xE0#8, 0x112233E0#32, 0x00F70000#32, []) := by decide
/-- A register address of the opcode table is a write of zero to that register. -/
theorem test_withFetchWord_register :
    seeStep ((State.reset.setReg 1 7#32).withFetchWord 24 0x08000) (·.reg 1) = some 0#32 := by decide
/-- The host takes no transaction before the boot step (10_state.md R37). -/
theorem test_step_host_before_boot :
    refusal (step { State.reset with schedule := [.op (hostRead .rtc 0 4)] }) = some .hostBeforeBoot := by
  decide
/-- `PROGDEC` is never issued by name (30_encoding.md R82), a command never outside an issue, a region
transform only through `DECRYPT_TITLE`, before the boot step and after it (40_bit_transforms.md
R110). -/
theorem test_step_internal_operations :
    refusal (step { booted with schedule := [.op (.engine .progdec [])] }) = some .progdecByName ∧
      refusal (step { booted with schedule := [.op (.mcucmd 0xC7#32)] }) = some .commandOutsideIssue ∧
      refusal (step { booted with schedule := [.op (.engine .crepack [.region .tile])] })
        = some .transformByName ∧
      refusal (step { State.reset with schedule := [.op (.engine .crepack [.region .tile])] })
        = some .transformByName := by decide
/-- The passes of a run's two entry points, each recorded once (10_state.md R43). -/
theorem test_passes :
    see (.decryptTitle titleTest) { booted with bootDone := false } (·.passes)
        = some [⟨.wdeca, .spriteMask⟩, ⟨.wdecb, .spriteColor⟩, ⟨.crepack, .spriteColor⟩] ∧
      see (.dectrigW [1#8]) booted (·.passes) = some [⟨.progdec, .program⟩] ∧
      see (.dectrigW [1#8]) { booted with decryptFlag := true } (·.passes) = some [] := by decide
/-- Nothing scheduled: nothing happens. -/
theorem test_step_idle : seeStep booted (fun t => (t.rom, t.draws)) = some (romTest, 0) := by decide
/-- Cards (45_dispatcher_rtc_card.md R249). -/
theorem test_step_cards :
    seeStep { booted with schedule := [.insertCard 2 [1#8]] } (·.cards[2]) = some (some [1#8]) ∧
      seeStep { cardState 0#32 with schedule := [.removeCard 0] } (·.cards[0]) = some none ∧
      refusal (step { cardState 0#32 with schedule := [.insertCard 0 []] }) = some .slotOccupied ∧
      refusal (step { booted with schedule := [.removeCard 0] }) = some .slotEmpty := by decide
/-- A warm reset keeps the buffers and their flags (70_reset_and_hazards.md R291). -/
theorem test_step_warmReset :
    seeStep { cardState 5#32 with schedule := [.warmReset], lastCommand := 0xC7#8 }
      (fun t => (t.bootDone, t.rom, t.reg 0, t.lastCommand, t.shareBank, t.cards[0].isSome))
      = some (true, romTest, 0#32, 0#8, 0#1, true) := by decide
/-- A cold reset clears both flags (R290) and takes the title's keys. -/
theorem test_step_coldReset :
    seeStep { booted with decryptFlag := true, schedule := [.coldReset ⟨[], [], [], []⟩ titleModule] }
        (fun t => (t.bootDone, t.decryptFlag, t.rom.program)) = some (false, false, []) ∧
      seeStep { booted with schedule := [.coldReset ⟨[], [], [], []⟩ titleModule] }
        (·.title.moduleLayer) = some (some (2, 0xFFFF#16)) := by decide
/-- A weakly fair run fires what it arms, one that ends with a completion pending is not fair (R305). -/
theorem test_runFor :
    (runFor 1 { booted with pendingEvent := some ⟨1, .issue⟩, schedule := [.op (.event .timerFire)] }).map
        (·.pendingEvent) = some none ∧
      (runFor 1 { booted with schedule := [.op (.mcucmd 0xC7#32)] }).isNone = true := by decide
/-- Save and restore (10_state.md R42). -/
theorem test_save_restore :
    (booted.restore { booted with realKey := 9#32, share := [(3, 4#8)] }.save).shareByte 3 = 4#8 ∧
      (booted.restore { booted with realKey := 9#32, rom := { romTest with tile := [] } }.save).rom = romTest := by
  decide

/-! ### Witnesses: for each statement with hypotheses, a state and operands that meet them -/

/-- `booted` with one packet scheduled. -/
def presenting (p : Packet) : State := { booted with schedule := [.op p] }

theorem witness_DecodeOfEncodeIsTheOperation :
    (Instr.mcuregW 7 1#32).wellFormed = true ∧ (Instr.inertR 1).wellFormed = true ∧
      (Instr.unknown 0xFF#8 args).wellFormed = true := by decide

/-- Addresses at the two ends of the extents of registers 2, 5 and 4. -/
theorem witness_RegisterIndexIsAddressBits17To15 :
    (regIndex 0x10000).val = 2 ∧ (regIndex 0x17FFF).val = 2 ∧ (regIndex 0x28000).val = 5 ∧
      (regIndex 0x2FFFF).val = 5 ∧ (regIndex 0x27FFF).val = 4 := by decide

theorem witness_StepRunsTheDecodedOperation :
    (presenting (hostRead .rtc 0 4)).schedule = [.op (hostRead .rtc 0 4)] ∧
      decode (hostRead .rtc 0 4) = .ok .rtcR ∧
      agentGuard .rtcR { presenting (hostRead .rtc 0 4) with schedule := [] } = none := by decide

theorem witness_StepRoutesHostAddresses :
    (∃ s : State, s.schedule = [.bus 4 (.read 4)]) ∧ booted.schedule = [] :=
  ⟨⟨{ booted with schedule := [.bus 4 (.read 4)] }, rfl⟩, rfl⟩

/-- An address map with gaps, in which every window has a place. -/
def mapTest : BusMap :=
  { rangeBase := 0x1000
    rangeSize := 0x200000
    base := fun w =>
      match w with
      | .enctab => 0x1000
      | .dectrig => 0x1100
      | .sprkey => 0x1104
      | .banksel => 0x1108
      | .share => 0x1200
      | .rtc => 0x1300
      | .mcureg => 0x10000
      | .inert => 0
    regUnit := .byte }

theorem witness_DispatcherRoutesByAddressRange :
    legalMap mapTest ∧ routeAddress mapTest 0x1000 = some (.enctab, 0) ∧
      routeAddress mapTest 0x10FF = some (.enctab, 255) ∧
      routeAddress mapTest 0x4FFFF = some (.mcureg, 0x3FFFF) ∧
      (∀ w ∈ routedWindows, ¬(mapTest.base w ≤ 0x110C ∧
        0x110C < mapTest.base w + windowSize mapTest.regUnit w)) ∧
      ¬(mapTest.rangeBase ≤ 0xFFF ∧ 0xFFF < mapTest.rangeBase + mapTest.rangeSize) := by
  unfold legalMap
  decide

theorem witness_IssueRunsTheCommandInRegister0 :
    (1#32 : Word) ≠ 0#32 ∧
      decode (.mcucmd ((loaded 0xC7#32 0#32).reg 0)) = .ok (.cident ⟨0#8, 0#8, 0#8⟩) := by decide

/-- The conditional operations where the spec does not refuse them. -/
theorem witness_OperationsCompleteUnlessTheSpecRefuses :
    ¬specRefuses (.cread ⟨0#8, 0#8, 128#8⟩) (cardState 0#32) ∧
      ¬specRefuses (.cwrite ⟨1#8, 0#8, 255#8⟩) (cardState 0#32) ∧
      ¬specRefuses (.mcuIssue 1#32) (cardState 0x800000C3#32) ∧
      ¬specRefuses .timerFire { booted with pendingEvent := some ⟨1, .issue⟩ } ∧
      ¬specRefuses .rtcR booted := by
  unfold specRefuses issuesTooLongCopy copyTooLong
  decide

theorem witness_RefusalsCarryTheirName :
    leavesBuffer 4 (booted.rom.get .program).length ∧ booted.bootDone = true ∧
      copyTooLong ⟨0#8, 0#8, 129#8⟩ (cardState 0#32) ∧
      issuesTooLongCopy 1#32 (cardState 0x810000C2#32) ∧
      issuesTooLongCopy 1#32 (cardState 0x810000C3#32) ∧ booted.pendingEvent = none :=
  ⟨⟨0, by decide, by decide⟩, rfl, by unfold copyTooLong; decide,
    by unfold issuesTooLongCopy copyTooLong; decide,
    by unfold issuesTooLongCopy copyTooLong; decide, rfl⟩

/-- A module layer that leaves its buffer whichever region it works on: every buffer has one word. -/
theorem witness_RefusedModuleLayer :
    ∃ s : State, s.bootDone = false ∧
      moduleLeavesBuffer { titleModule with moduleLayer := some (1, 0#16) } s := by
  let word : List Half := [0#16]
  refine ⟨{ State.reset with rom := ⟨word, word, word, word⟩ }, rfl, 1, 0#16, rfl, 0, ?_⟩
  cases Config.cfg.moduleRegion <;> decide

theorem booted_inv : Inv booted := by
  constructor <;> simp [booted, State.reset, Memory.wf, Memory.below]

theorem witness_EveryStepKeepsTheInvariants :
    ∃ t, Inv (presenting (hostWrite .share 1 [2#8])) ∧
      step (presenting (hostWrite .share 1 [2#8])) = .next t :=
  ⟨_, { booted_inv with }, rfl⟩

theorem witness_RomBuffersHaveOnePassAfterBoot :
    ∃ t, (presenting (hostWrite .dectrig 0 [0#8])).bootDone = true ∧
      coldResetNext (presenting (hostWrite .dectrig 0 [0#8])) = false ∧
      step (presenting (hostWrite .dectrig 0 [0#8])) = .next t := ⟨_, rfl, rfl, rfl⟩

/-- A state with a completion pending that presents its fire. -/
def firing : State := { presenting (.event .timerFire) with pendingEvent := some ⟨30, .issue⟩ }

theorem witness_OnlyTheTimerRaisesTheCompletionInterrupt :
    ∃ t, coldResetNext firing = false ∧ step firing = .next t ∧
      t.events = firing.events ++ [.irq .mcu] := ⟨_, rfl, rfl, rfl⟩

theorem witness_CompletionsAreReplacedOrFireButNeverCancelled :
    ∃ t, resetNext firing = false ∧ disciplined firing = true ∧
      firing.pendingEvent = some ⟨30, .issue⟩ ∧ step firing = .next t := ⟨_, rfl, by decide, rfl, rfl⟩

/-- Two states that differ in what the host has no window onto, and agree on the rest. -/
theorem witness_HostReadsRevealNoHiddenState :
    ∃ t t', hostReads (.shareR 0#7) = true ∧
      hostAgrees booted { booted with realKey := 1#32, pendingEvent := some ⟨1, .issue⟩ } ∧
      (∀ idx, Instr.shareR 0#7 = .mcuregR idx → (idx = 3 ∨ idx = 4) →
        booted.pendingEvent.isSome = (some (⟨1, .issue⟩ : Completion)).isSome) ∧
      exec (.shareR 0#7) booted = .next t ∧
      exec (.shareR 0#7) { booted with realKey := 1#32, pendingEvent := some ⟨1, .issue⟩ }
        = .next t' :=
  ⟨_, _, rfl, ⟨fun _ => rfl, fun _ _ => rfl, fun _ => rfl, rfl, rfl⟩, fun _ h => by simp at h,
    rfl, rfl⟩

/-- Another register than a mailbox needs no agreement on the completion; a mailbox does. -/
theorem witness_HostReadsRevealNoHiddenState_mailbox :
    (∀ idx, Instr.mcuregR 0 = .mcuregR idx → (idx = 3 ∨ idx = 4) →
        booted.pendingEvent.isSome = true) ∧
      (∀ idx, Instr.mcuregR 3 = .mcuregR idx → (idx = 3 ∨ idx = 4) →
        booted.pendingEvent.isSome = { booted with realKey := 1#32 }.pendingEvent.isSome) := by
  refine ⟨fun idx h hi => ?_, fun _ _ _ => rfl⟩
  cases h
  exact absurd hi (by decide)

/-- The narrowest read and the last byte of the constant in a wider one. -/
theorem witness_InertReadsAnswerTheFixedValue :
    (∃ i : Instr, i = .dectrigR 1 ∨ i = .sprkeyR 1 ∨ i = .bankselR 1 ∨ i = .inertR 1) ∧ 0 < 1 ∧
      (∃ i : Instr, i = .dectrigR 5 ∨ i = .sprkeyR 5 ∨ i = .bankselR 5 ∨ i = .inertR 5) ∧ 3 < 5 :=
  ⟨⟨.dectrigR 1, .inl rfl⟩, by decide, ⟨.inertR 5, .inr (.inr (.inr rfl))⟩, by decide⟩

theorem witness_CommandsNeverTouchTheHostsBank :
    (Instr.cident args).format = .mcucmd ∧ (∃ t, exec (.cident args) booted = .next t) ∧
      (∃ t, exec (.mcuIssue 0#32) booted = .next t) ∧ ∃ t, exec (.mcuAck 0#32) booted = .next t :=
  ⟨rfl, ⟨_, rfl⟩, ⟨_, rfl⟩, ⟨_, rfl⟩⟩

theorem witness_TriggerDecryptsTheProgramOnce :
    booted.decryptFlag = false ∧ { booted with decryptFlag := true }.decryptFlag = true := by decide

theorem witness_SecondTriggerLeavesTheProgramBuffer :
    ∃ t, exec (.dectrigW [0#8]) booted = .next t := ⟨_, rfl⟩

theorem witness_SpriteKeyWriteDerivesTheRealKey :
    booted.title.predecrypted = false ∧ titleModule.predecrypted = true := by decide

/-- The selector may change or stay. -/
theorem witness_BankSelectExchangesTheBanks :
    see (.bankselW [1#8]) booted (fun t => decide (t.shareBank ≠ booted.shareBank)) = some true ∧
      see (.bankselW [2#8]) booted (fun t => decide (t.shareBank ≠ booted.shareBank)) = some false := by
  decide

theorem witness_TheTwoPortsNeverAlias :
    (List.replicate 128 7#8).length ≤ 128 ∧ (List.replicate 128 7#8)[127]? = some 7#8 := by simp

theorem witness_ClockAnswersNeverDecrease :
    ∃ t, coldResetNext (presenting (hostRead .rtc 0 4)) = false ∧
      step (presenting (hostRead .rtc 0 4)) = .next t := ⟨_, rfl, rfl⟩

theorem witness_RegisterReadAnswersTheRegister :
    ¬(((3 : Fin 8) = 3 ∨ (3 : Fin 8) = 4) ∧ booted.pendingEvent ≠ none) ∧
      ¬(((2 : Fin 8) = 3 ∨ (2 : Fin 8) = 4) ∧ firing.pendingEvent ≠ none) := by decide

theorem witness_RegisterWriteStoresTheRegister :
    (0 : Fin 8) ≠ 2 ∧ (0 : Fin 8) ≠ 5 ∧ (7 : Fin 8) ≠ 2 ∧ (7 : Fin 8) ≠ 5 := by decide

/-- The second clause, for a card copy at the largest admitted count and for another command. -/
theorem witness_IssueStoresRunsPacksAndArms :
    (1#32 : Word) ≠ 0#32 ∧ commandByte (cardState 0x800000C2#32) = 0xC2#8 ∧
      ¬copyTooLong (commandArgs (cardState 0x800000C2#32)) (cardState 0x800000C2#32) ∧
      commandByte (cardState 0xE0#32) ≠ 0xC2#8 := by
  unfold copyTooLong
  decide

theorem witness_AcknowledgeClosesTheCommand :
    (1#32 : Word) ≠ 0#32 ∧ { booted with lastCommand := 0xE0#8 }.lastCommand ≠ 0#8 ∧
      booted.lastCommand = 0#8 := by decide

theorem witness_ReadyAndStubsOnlyReportTheirByte :
    (Instr.cready args = .cready args ∧ (0xC1#8 : Byte) = 0xC1#8) ∧
      Instr.cstub9 args = .cstub9 args ∧ (0xC9#8 : Byte) = 0xC9#8 := by decide

/-- A card in the slot, with counts 0 and 128 at the ends of the range, and an empty slot. -/
theorem witness_CardReadFillsTheOppositeBank :
    ¬copyTooLong ⟨0#8, 0#8, 0#8⟩ (cardState 0#32) ∧ ¬copyTooLong ⟨0#8, 0#8, 128#8⟩ (cardState 0#32) ∧
      (cardState 0#32).cards[slotOf ⟨0#8, 0#8, 0#8⟩] ≠ none ∧
      ¬copyTooLong ⟨1#8, 0#8, 255#8⟩ (cardState 0#32) ∧
      (cardState 0#32).cards[slotOf ⟨1#8, 0#8, 255#8⟩] = none := by
  unfold copyTooLong
  decide

/-- A span that ends with the card's last byte. -/
theorem witness_CardWriteCopiesTheOppositeBank :
    ¬copyTooLong ⟨0#8, 0x3C#8, 4#8⟩ (cardState 0#32) ∧
      ((cardState 0#32).cards[slotOf ⟨0#8, 0x3C#8, 4#8⟩].getD []).length = 0x3C + 4 := by
  unfold copyTooLong
  decide

/-- The last byte of the card. -/
theorem witness_CardByteWriteStoresOneByte :
    0x3F < ((cardState 0#32).cards[slotOf ⟨0#8, 0x3F#8, 4#8⟩].getD []).length ∧
      (cardState 0#32).cards[slotOf ⟨3#8, 0#8, 0#8⟩] = none := by decide

theorem witness_EventsOnlyRaiseTheirInterrupt : firing.pendingEvent ≠ none := by decide

theorem witness_CardsComeAndGoBetweenOperations :
    (∃ s : State, s.schedule = [.insertCard 1 [5#8]] ∧ s.cards[(1 : Fin 4)] = none) ∧
      ∃ s : State, s.schedule = [.removeCard 0] ∧ s.cards[(0 : Fin 4)] ≠ none :=
  ⟨⟨{ cardState 0#32 with schedule := [.insertCard 1 [5#8]] }, rfl, rfl⟩,
    ⟨{ cardState 0#32 with schedule := [.removeCard 0] }, rfl, by decide⟩⟩

theorem witness_WarmResetRetainsTheBuffersAndTheirFlags :
    ∃ s : State, s.schedule = [.warmReset] := ⟨{ booted with schedule := [.warmReset] }, rfl⟩

theorem witness_ColdResetLoadsTheImages :
    ∃ s : State, s.schedule = [.coldReset ⟨[1#8, 2#8], [], [], [3#8, 4#8]⟩ titleTest] ∧
      [1#8, 2#8].length % 2 = 0 ∧ ([] : List Byte).length % 2 = 0 :=
  ⟨{ booted with schedule := [.coldReset ⟨[1#8, 2#8], [], [], [3#8, 4#8]⟩ titleTest] }, rfl, rfl, rfl⟩

theorem witness_ImageWordsFollowTheWordOrder :
    wordsOfImage .big [0x12#8, 0x34#8] = some [0x1234#16] ∧ [0x1234#16][0]? = some 0x1234#16 := by
  decide

theorem witness_SaveAndRestoreCarryTheSaveSet :
    Inv booted ∧ { booted with realKey := 9#32 }.passes = booted.passes := ⟨booted_inv, rfl⟩

/-- Hypotheses of `pending_fires_if_weaklyFair`: a schedule that fires what is pending. -/
theorem witness_pending_fires_if_weaklyFair : weaklyFair firing ∧ firing.pendingEvent ≠ none :=
  ⟨⟨_, rfl, rfl⟩, by decide⟩

theorem witness_Reverse32MirrorsEveryBit : 0 < 32 ∧ 31 < 32 := by decide

/-- The premise of injectivity, and both ends of the bit range. -/
theorem witness_PermutationKeepsBitsAndXor : permute16 pbr 1#16 = permute16 pbr 1#16 := rfl

theorem witness_Reverse32IsAnInvolution : reverse32 1#32 = reverse32 1#32 := rfl

/-- A shifted index with bits 10:0 zero and bit 11 set; a pair under shift 1. -/
theorem witness_PositionMaskRepeats :
    (4096 / 2 ^ cfgA.shift) % 2 ^ 11 = 0 ∧ 1 ≤ cfgA.shift := by decide

/-- Whatever the phase, `booted` has a word of that parity and one of the other. -/
theorem witness_PositionalDecodersVisitOneParity :
    (Instr.wdeca .spriteMask 1#16 = .wdeca .spriteMask 1#16 ∧ Config.cfg.wdecA = Config.cfg.wdecA ∧
        Transform.wdeca = .wdeca) ∧
      ∀ phase : Fin 2, (∃ j, ∃ _ : (booted.rom.get .spriteMask)[j]? = some 0x1234#16 ∨
          (booted.rom.get .spriteMask)[j]? = some 0xABCD#16, j % 2 = phase.val) ∧
        ∃ j, ∃ _ : (booted.rom.get .spriteMask)[j]? = some 0x1234#16 ∨
          (booted.rom.get .spriteMask)[j]? = some 0xABCD#16, j % 2 ≠ phase.val := by
  refine ⟨⟨rfl, rfl, rfl⟩, fun phase => ?_⟩
  match phase with
  | 0 => exact ⟨⟨0, .inl rfl, rfl⟩, ⟨1, .inr rfl, by decide⟩⟩
  | 1 => exact ⟨⟨1, .inr rfl, rfl⟩, ⟨0, .inl rfl, by decide⟩⟩

/-- Both clauses of the module layer: a mask below the power of two, and a buffer in range. -/
theorem witness_ModuleXorPermutesTheBuffer :
    3 < 2 ^ 2 ∧ 4 % 2 ^ 2 = 0 ∧ ¬leavesBuffer 3 (booted.rom.get .program).length := by
  refine ⟨by decide, by decide, ?_⟩
  rintro ⟨i, hi, h⟩
  have hi : i < 4 := hi
  have h : 4 ≤ i ^^^ 3 := h
  match i, hi with
  | 0, _ | 1, _ | 2, _ | 3, _ => revert h; decide

/-- A title without a module layer, and one whose layer is in range of any buffer. -/
theorem witness_TitleDecryptIsItsStepsInOrder :
    { booted with bootDone := false }.bootDone = false ∧ titleTest.moduleLayer = none ∧
      ∀ n, ¬leavesBuffer 0 n := by
  refine ⟨rfl, rfl, fun n => ?_⟩
  rintro ⟨i, hi, h⟩
  rw [Nat.xor_zero] at h
  exact absurd hi (Nat.not_lt.mpr h)

theorem witness_TitleDecryptLeavesOtherBuffers :
    ∃ t, exec (.decryptTitle titleTest) { booted with bootDone := false } = .next t := ⟨_, rfl⟩

end Sys2Proof.Tests
end

/-! PROOFS. The Bit-Transform Library (40_bit_transforms.md): what each transform does bit by bit, and
the obligations about it. -/

namespace Sys2Proof.Machine

/-- What `reverse32` does, bit by bit and for every position (R118): bits past the word are zero. -/
theorem getLsbD_reverse32 (v : Word) (p : Nat) :
    (reverse32 v).getLsbD p = (decide (p < 32) && v.getLsbD (31 - p)) := by
  rw [reverse32, BitVec.getLsbD_ofFnLE]
  split
  case isTrue hp => rw [decide_eq_true hp, Bool.true_and]
  case isFalse hp => rw [decide_eq_false hp, Bool.false_and]

/-- Settles O53: the bits by `getLsbD_reverse32`, the rule's example by computing it. -/
theorem reverse32MirrorsEveryBit : Obligations.Reverse32MirrorsEveryBit := by
  refine ⟨fun v p hp => ?bits, ?quotedExample⟩
  case bits => rw [getLsbD_reverse32, decide_eq_true hp, Bool.true_and]
  case quotedExample => decide +kernel

end Sys2Proof.Machine

/-! PROOFS. The Decryption Engine (41_decrypt_engine.md): the table write, the trigger and its guard,
and the packets that the spec writes out. -/

namespace Sys2Proof.Machine

open Sys2Proof.Claims

/-! ### The table write (R146) -/

theorem exec_enctabW (s : State) (k v : Byte) :
    exec (.enctabW k v) s = .next (s.setEncTab k.toNat v) := rfl

/-- The frame of a table write: all that is not the table. -/
theorem setEncTab_frame (s : State) (k : Nat) (v : Byte) :
    sameShare s (s.setEncTab k v) ∧ (s.setEncTab k v).shareBank = s.shareBank ∧
      sameRegsBut [] s (s.setEncTab k v) ∧ sameEngine s (s.setEncTab k v) ∧
      sameKeys s (s.setEncTab k v) ∧ sameProtocol s (s.setEncTab k v) ∧
      sameOutside s (s.setEncTab k v) ∧ (s.setEncTab k v).readData = s.readData := by
  refine ⟨?share, setEncTab_shareBank s k v, ?regs, ?engine, ?keys, ?protocol, ?outside,
    setEncTab_readData s k v⟩
  case share => exact shareByte_setEncTab s k v
  case regs => exact fun j _ => reg_setEncTab s k v j
  case engine => simp [sameEngine]
  case keys => simp [sameKeys]
  case protocol => simp [sameProtocol]
  case outside => simp [sameOutside, sameRun]

/-- Settles O20: the table by its read-after-write law, the rest by the frame of a table write. -/
theorem tableWriteStoresOneEntry : Obligations.TableWriteStoresOneEntry := by
  intro s k v
  refine ⟨_, exec_enctabW s k v, ?stored, ?others, setEncTab_frame s k.toNat v⟩
  case stored => rw [encTabByte_setEncTab, if_pos rfl]
  case others =>
    intro j hj
    rw [encTabByte_setEncTab, if_neg hj]

/-! ### The trigger and its guard (R149) -/

theorem exec_dectrigW_first {s : State} (data : BusData) (h : s.decryptFlag = false) :
    exec (.dectrigW data) s = .next { programDecrypt s with decryptFlag := true } := by
  simp [exec, execDectrigW, h]

theorem exec_dectrigW_later {s : State} (data : BusData) (h : s.decryptFlag = true) :
    exec (.dectrigW data) s = .next s := by
  simp [exec, execDectrigW, h]

/-- The guard is shut after a trigger, whether it was the first or a later one. -/
theorem decryptFlag_of_dectrigW {s t : State} {data : BusData}
    (h : exec (.dectrigW data) s = .next t) : t.decryptFlag = true := by
  cases hflag : s.decryptFlag with
  | false =>
    rw [exec_dectrigW_first data hflag] at h
    cases h
    rfl
  | true =>
    rw [exec_dectrigW_later data hflag] at h
    cases h
    exact hflag

/-- Settles O25: the first trigger shuts the guard, a rewritten table does not open it again, and so
the second trigger does nothing. -/
theorem secondTriggerLeavesTheProgramBuffer : Obligations.SecondTriggerLeavesTheProgramBuffer := by
  intro s t data data' table h
  have shut : t.decryptFlag = true := decryptFlag_of_dectrigW h
  exact ⟨{ t with encTab := table }, exec_dectrigW_later data' shut, rfl⟩

/-! ### The packets that the spec writes out (30_encoding.md sections 1 to 3) -/

/-- A one-byte write of a table entry. -/
theorem decode_enctab_write (k v : Byte) :
    decode (writePacket .enctab k.toNat [v]) = .ok (.enctabW k v) := by
  have offInWindow : ¬256 ≤ k.toNat := by omega
  simp [decode, decodeHost, decodeWrite, writePacket, offInWindow]

/-- A one-byte write of the shared RAM, at each of the 128 offsets it has. -/
theorem decode_share_write (o : BitVec 7) (v : Byte) :
    decode (writePacket .share o.toNat [v]) = .ok (.shareW o v) := by
  have offInWindow : ¬256 ≤ o.toNat := by omega
  have offInBank : ¬128 ≤ o.toNat := by omega
  simp [decode, decodeHost, decodeWrite, writePacket, offInWindow, offInBank]

/-- A one-byte read of the shared RAM, at each of the 128 offsets it has. -/
theorem decode_share_read (o : BitVec 7) :
    decode (readPacket .share o.toNat 1) = .ok (.shareR o) := by
  have offInWindow : ¬256 ≤ o.toNat := by omega
  have offInBank : ¬128 ≤ o.toNat := by omega
  simp [decode, decodeHost, decodeRead, readPacket, offInWindow, offInBank]

/-- A write of the bank selector, of any width. -/
theorem decode_banksel_write (off : Nat) (b : Byte) (more : BusData) :
    decode (writePacket .banksel off (b :: more)) = .ok (.bankselW (b :: more)) := rfl

/-- A 4-byte write of the register window is told by its register index (R85, R90). -/
theorem decode_mcureg_write (a : Nat) (b0 b1 b2 b3 : Byte) :
    decode (writePacket .mcureg a [b0, b1, b2, b3]) =
      .ok (decodeRegWrite (regIndex a) (wordOfBytes b0 b1 b2 b3)) := rfl

/-- A command word is told by its command byte (R83, R92). -/
theorem decode_commandWord (c : Byte) (a : CmdArgs) :
    decode (.mcucmd (commandWord c a)) = .ok ((cmdOp c).toInstr a) :=
  congrArg Except.ok (decodeCommand_commandWord c a)

/-- Settles O5: each packet follows from the rule of its window or of command words; only the
literal numbers are computed. -/
theorem specWordsDecode : Obligations.SpecWordsDecode :=
  ⟨decode_enctab_write 16#8 0xA5#8,
    decode_banksel_write 0 1#8 [0#8, 0#8, 0#8],
    decode_share_write 3#7 0x13#8,
    decode_share_read 127#7,
    decode_mcureg_write 0x10000 1#8 0#8 0#8 0#8,
    decode_mcureg_write 0x28000 1#8 0#8 0#8 0#8,
    decode_mcureg_write 0x08000 0xBE#8 0xBA#8 0xFE#8 0xCA#8,
    decode_commandWord 0xE1#8 ⟨0#8, 2#8, 0xAA#8⟩,
    decode_commandWord 0xF6#8 ⟨0#8, 0#8, 0#8⟩,
    decode_commandWord 0xE0#8 ⟨0x33#8, 0x22#8, 0x11#8⟩,
    decode_commandWord 0xC0#8 ⟨1#8, 0#8, 0#8⟩,
    decode_commandWord 0xC2#8 ⟨0#8, 2#8, 4#8⟩,
    decode_commandWord 0xC3#8 ⟨0#8, 0x20#8, 3#8⟩,
    decode_commandWord 0xC8#8 ⟨0#8, 0x3F#8, 0x5A#8⟩,
    decode_commandWord 0xC1#8 ⟨1#8, 0#8, 0#8⟩,
    decode_commandWord 0xC4#8 ⟨0#8, 0#8, 0#8⟩,
    decode_commandWord 0xC3#8 ⟨2#8, 0x10#8, 3#8⟩,
    decode_commandWord 0xFF#8 ⟨0#8, 0#8, 0#8⟩⟩

end Sys2Proof.Machine

/-! PROOFS. The sprite-key register (42_sprite_key.md): what a write stores, the real key that it
derives, and what it leaves unchanged. -/

namespace Sys2Proof.Machine

open Sys2Proof.Claims

/-- The real key after a write of the raw key `v` (R161): the old one if the title is predecrypted,
the derived one otherwise. -/
def realKeyAfter (s : State) (v : Word) : Word :=
  if s.title.predecrypted then s.realKey else reverse32 (v ^^^ Config.sprkeyMask)

theorem realKeyAfter_of_predecrypted {s : State} (v : Word) (h : s.title.predecrypted = true) :
    realKeyAfter s v = s.realKey := if_pos h

theorem realKeyAfter_of_not_predecrypted {s : State} (v : Word)
    (h : s.title.predecrypted = false) :
    realKeyAfter s v = reverse32 (v ^^^ Config.sprkeyMask) :=
  if_neg (Bool.eq_false_iff.mp h)

/-- A write of the sprite-key register in one equation for both kinds of title. -/
theorem exec_sprkeyW (s : State) (v : Word) :
    exec (.sprkeyW v) s = .next { s with rawKey := v, realKey := realKeyAfter s v } := by
  cases h : s.title.predecrypted with
  | true => simp [exec, execSprkeyW, realKeyAfter_of_predecrypted v h, h]
  | false => simp [exec, execSprkeyW, realKeyAfter_of_not_predecrypted v h, h]

/-- The frame of a key write: all that is not one of the two sprite keys, whatever they become. -/
theorem setKeys_frame (s : State) (raw real : Word) :
    let t := { s with rawKey := raw, realKey := real }
    sameEncTab s t ∧ sameShare s t ∧ t.shareBank = s.shareBank ∧ sameRegsBut [] s t ∧
      sameEngine s t ∧ sameProtocol s t ∧ sameOutside s t ∧ t.readData = s.readData := by
  refine ⟨fun _ => rfl, fun _ => rfl, rfl, fun _ _ => rfl, ?engine, ?protocol, ?outside, rfl⟩
  case engine => exact ⟨rfl, rfl, rfl, rfl⟩
  case protocol => exact ⟨rfl, rfl, rfl, rfl⟩
  case outside => exact ⟨⟨rfl, rfl, rfl⟩, rfl, rfl, rfl⟩

/-- Settles O26: the bits of the derived key by `getLsbD_reverse32`, the rest by the frame of a key
write. -/
theorem spriteKeyWriteDerivesTheRealKey : Obligations.SpriteKeyWriteDerivesTheRealKey := by
  intro s v
  refine ⟨_, exec_sprkeyW s v, rfl, ?derived, realKeyAfter_of_predecrypted v, setKeys_frame s v _⟩
  case derived =>
    intro h p hp
    calc (realKeyAfter s v).getLsbD p
        = (reverse32 (v ^^^ Config.sprkeyMask)).getLsbD p := by
          rw [realKeyAfter_of_not_predecrypted v h]
      _ = (v ^^^ Config.sprkeyMask).getLsbD (31 - p) := by
          rw [getLsbD_reverse32, decide_eq_true hp, Bool.true_and]

end Sys2Proof.Machine

/-! PROOFS. The shared RAM (43_share_ram.md): the two banks and the two ports, the bank select, and
where a write of either port lands. -/

namespace Sys2Proof.Machine

open Sys2Proof.Claims

/-! ### The ports' indices (R171, R172) -/

/-- With the selector flipped, Port A reaches the bank that Port B reached. -/
theorem portAIndex_of_ne {b b' : BitVec 1} (h : b' ≠ b) (o : Nat) :
    portAIndex b' o = portBIndex b o := by
  rcases bank_cases b with rfl | rfl <;> rcases bank_cases b' with rfl | rfl
  case inl.inl | inr.inr => exact absurd rfl h
  case inl.inr | inr.inl => rfl

/-- With the selector flipped, Port B reaches the bank that Port A reached. -/
theorem portBIndex_of_ne {b b' : BitVec 1} (h : b' ≠ b) (o : Nat) :
    portBIndex b' o = portAIndex b o := (portAIndex_of_ne h.symm o).symm

/-- Port A's index in R183's own formula. -/
theorem portAIndex_eq_masked (b : BitVec 1) (o : Nat) :
    portAIndex b o = o + (b &&& 1#1).toNat * 128 := by
  rcases bank_cases b with rfl | rfl <;> rfl

/-- Port B's index in R183's own formula. -/
theorem portBIndex_eq_masked (b : BitVec 1) (o : Nat) :
    portBIndex b o = o + (~~~b &&& 1#1).toNat * 128 := by
  rcases bank_cases b with rfl | rfl <;> rfl

theorem portBIndex_eq_base_add (b : BitVec 1) (o : Nat) :
    portBIndex b o = portBIndex b 0 + o := by
  simp only [portBIndex]
  omega

/-! ### Where a write lands (R175, R179) -/

theorem shareByte_portAWrite_same (s : State) (o : Nat) (v : Byte) :
    (s.portAWrite o v).shareByte (portAIndex s.shareBank o) = v := by
  rw [shareByte_portAWrite, if_pos rfl]

theorem shareByte_portAWrite_other (s : State) {o p : Nat} (v : Byte)
    (h : p ≠ portAIndex s.shareBank o) : (s.portAWrite o v).shareByte p = s.shareByte p := by
  rw [shareByte_portAWrite, if_neg h]

/-- A host write is not seen through Port B, whose indices are never Port A's. -/
theorem portBRead_portAWrite (s : State) {oA oB : Nat} (v : Byte) (hA : oA < 128) (hB : oB < 128) :
    (s.portAWrite oA v).portBRead oB = s.portBRead oB :=
  shareByte_portAWrite_other s v (portAIndex_ne_portBIndex s.shareBank hA hB).symm

/-- Byte `o` of a command's run of writes lands at Port B's index of `o`. -/
theorem shareByte_portBWriteList_of_getElem? (s : State) {vs : List Byte} {o : Nat} {v : Byte}
    (h : vs[o]? = some v) : (s.portBWriteList vs).shareByte (portBIndex s.shareBank o) = v := by
  obtain ⟨ho, -⟩ := List.getElem?_eq_some_iff.mp h
  rw [portBIndex_eq_base_add s.shareBank o, shareByte_portBWriteList, if_pos (by omega),
    Nat.add_sub_cancel_left, List.getD_eq_getElem?_getD, h, Option.getD_some]

/-- The frame of the shared RAM: all that is neither a byte of `SHARE` nor the selector, whatever
they become. -/
theorem setShare_frame (s : State) (share : Memory) (bank : BitVec 1) :
    let t := { s with share := share, shareBank := bank }
    sameEncTab s t ∧ sameRegsBut [] s t ∧ sameEngine s t ∧ sameKeys s t ∧ sameProtocol s t ∧
      sameOutside s t ∧ t.readData = s.readData := by
  refine ⟨fun _ => rfl, fun _ _ => rfl, ?engine, ⟨rfl, rfl⟩, ?protocol, ?outside, rfl⟩
  case engine => exact ⟨rfl, rfl, rfl, rfl⟩
  case protocol => exact ⟨rfl, rfl, rfl, rfl⟩
  case outside => exact ⟨⟨rfl, rfl, rfl⟩, rfl, rfl, rfl⟩

/-! ### The bank select (R173) -/

theorem exec_bankselW (s : State) (b : Byte) (more : BusData) :
    exec (.bankselW (b :: more)) s = .next { s with shareBank := b.extractLsb' 0 1 } := rfl

/-- A changed selector exchanges what the two ports read: the bytes stay, the indices change
places. -/
theorem portReads_exchange {s : State} {bank : BitVec 1} (h : bank ≠ s.shareBank) (o : Nat) :
    let t := { s with shareBank := bank }
    t.portARead o = s.portBRead o ∧ t.portBRead o = s.portARead o :=
  ⟨congrArg s.shareByte (portAIndex_of_ne h o), congrArg s.shareByte (portBIndex_of_ne h o)⟩

/-- An unchanged selector leaves what the two ports read. -/
theorem portReads_keep {s : State} {bank : BitVec 1} (h : bank = s.shareBank) (o : Nat) :
    let t := { s with shareBank := bank }
    t.portARead o = s.portARead o ∧ t.portBRead o = s.portBRead o := by
  subst h
  exact ⟨rfl, rfl⟩

/-- Settles O27: the exchange by the ports' indices under a flipped selector, the rest by the frame
of the shared RAM. -/
theorem bankSelectExchangesTheBanks : Obligations.BankSelectExchangesTheBanks := by
  intro s b more
  refine ⟨_, exec_bankselW s b more, rfl, fun _ => rfl, ?changed, ?unchanged,
    setShare_frame s s.share _⟩
  case changed => exact fun h o _ => portReads_exchange h o
  case unchanged => exact fun h o _ => portReads_keep h o

/-! ### The host's write (R175) -/

theorem exec_shareW (s : State) (o : BitVec 7) (v : Byte) :
    exec (.shareW o v) s = .next (s.portAWrite o.toNat v) := rfl

/-- Settles O28: the bytes by Port A's read-after-write law, the other bank by the disjointness of
the ports' indices, the rest by the frame of the shared RAM. -/
theorem shareWriteStoresInTheHostsBank : Obligations.ShareWriteStoresInTheHostsBank := by
  intro s o v
  refine ⟨_, exec_shareW s o v, ?stored, ?others, ?portB, portAWrite_shareBank s o.toNat v,
    setShare_frame s _ s.shareBank⟩
  case stored => exact shareByte_portAWrite_same s o.toNat v
  case others => exact fun _ hp => shareByte_portAWrite_other s v hp
  case portB => exact fun _ ho' => portBRead_portAWrite s v o.isLt ho'

/-! ### The two ports side by side (R176, R183) -/

/-- Settles O29: each port's landing place by its index in R183's formula, the disjointness and the
bounds by the laws of the two indices. -/
theorem theTwoPortsNeverAlias : Obligations.TheTwoPortsNeverAlias := by
  refine ⟨?portA, ?portB, ?disjoint⟩
  case portA =>
    intro s o v _
    rw [← portAIndex_eq_masked]
    exact ⟨shareByte_portAWrite_same s o v, fun _ hp => shareByte_portAWrite_other s v hp⟩
  case portB =>
    intro s vs o v _ hv
    rw [← portBIndex_eq_masked]
    exact shareByte_portBWriteList_of_getElem? s hv
  case disjoint =>
    intro bank oA oB hA hB
    exact ⟨portAIndex_ne_portBIndex bank hA hB, portAIndex_lt bank hA, portBIndex_lt bank hB⟩

end Sys2Proof.Machine

/-! PROOFS. The MCU commands (44_mcu_protocol.md section 3): the end that every command shares, and
the card check. -/

namespace Sys2Proof.Machine

open Sys2Proof.Claims

/-! ### The common end of a command (R200, R201) -/

/-- The pack puts the status in bits 23:16 and leaves the rest of the word (30_encoding.md R84). -/
theorem packed_packStatus (w : Word) (status : Byte) : packed w (packStatus w status) status :=
  ⟨statusOf_packStatus w status, fun _ hp h => packStatus_getLsbD_other w status hp h⟩

/-- Of the registers, the end of a command changes `REG[3]` only, and there only the status. -/
theorem finishCommand_packs_mailbox (s : State) (status : Byte) (delay : Nat) :
    packed (s.reg 3) ((s.finishCommand status delay).reg 3) status ∧
      sameRegsBut [3] s (s.finishCommand status delay) := by
  refine ⟨?mailbox, fun j hj => ?others⟩
  case mailbox =>
    rw [reg_finishCommand, if_pos rfl]
    exact packed_packStatus (s.reg 3) status
  case others =>
    rw [reg_finishCommand, if_neg (List.ne_of_not_mem_cons hj)]

/-- A command whose own rule only reports its byte ends as every command does, with any status and
delay. -/
theorem commandEnd_of_report (s : State) (cmd status : Byte) (delay : Nat) :
    commandEnd status delay s
      (((s.beginCommand cmd).resultIsCommand cmd).finishCommand status delay) := by
  obtain ⟨mailbox, others⟩ :=
    finishCommand_packs_mailbox ((s.beginCommand cmd).resultIsCommand cmd) status delay
  refine ⟨mailbox, others, finishCommand_pendingEvent _ status delay, ?encTab, ?bank, ?engine, ?keys,
    ?run, ?clock, ?answer⟩
  case encTab => exact fun k => by simp
  case engine => simp [sameEngine]
  case keys => simp [sameKeys]
  case run => simp [sameRun]
  case bank | clock | answer => simp

/-! ### The card check (R206) -/

/-- The model's slot, `arg1` modulo 4, is the rule's `arg1 & 3`. -/
theorem cardSlot_eq_slotOf (a : CmdArgs) : cardSlot a = slotOf a := by
  have mask : (a.arg1 &&& 3#8).toNat = a.arg1.toNat % 4 :=
    (BitVec.toNat_and ..).trans (Nat.and_two_pow_sub_one_eq_mod a.arg1.toNat 2)
  simp only [cardSlot, slotOf, mask, Nat.mod_mod]

/-- The status that `CCHECK` reports: "no card" for an empty slot, else "accepted". -/
def cardCheckStatus (a : CmdArgs) (s : State) : Byte :=
  if s.cards[slotOf a] = none then 0xF4#8 else 0xF7#8

theorem exec_ccheck (a : CmdArgs) (s : State) :
    exec (.ccheck a) s = .next (((s.beginCommand 0xC0#8).resultIsCommand 0xC0#8).finishCommand
      (cardCheckStatus a s) 1) := by
  have status : (if s.cardPresent (cardSlot a) then Config.statusAccepted else Config.statusNoCard)
      = cardCheckStatus a s := by
    rw [cardSlot_eq_slotOf, State.cardPresent, cardCheckStatus]
    cases s.cards[slotOf a] with
    | none => rfl
    | some bytes => rfl
  rw [← status]
  rfl

/-- Settles O38: the status by `exec_ccheck`, the frame by the end of a command that only reports its
byte. -/
theorem cardCheckReportsPresence : Obligations.CardCheckReportsPresence := by
  intro s a
  refine ⟨_, exec_ccheck a s, ?byte, ?result1, ?lastCommand, commandEnd_of_report s _ _ 1, ?share,
    ?cards, ?events⟩
  case byte => rfl
  case share => exact fun p => by simp
  case result1 | lastCommand | cards | events => simp

end Sys2Proof.Machine

/-! PROOFS. The inert addresses (45_dispatcher_rtc_card.md): a write is ignored, and a read answers
the fixed value. -/

namespace Sys2Proof.Machine

open Sys2Proof.Claims

/-! ### The bytes of an inert read (R148, R243) -/

/-- Below the fourth byte no free value enters an inert read. -/
theorem inertByte_of_lt {k : Nat} (h : k < 4) :
    inertByte k = byteOf Config.cfg.inertReadValue k := if_pos h

/-- A 4-byte inert read is the whole constant. -/
theorem inertData_four : inertData 4 = bytes32 Config.cfg.inertReadValue :=
  calc (List.range 4).map inertByte
      = (List.range 4).map (byteOf Config.cfg.inertReadValue) :=
        List.map_congr_left fun _ hk => inertByte_of_lt (List.mem_range.mp hk)
    _ = bytes32 Config.cfg.inertReadValue := rfl

/-! ### Inert accesses (R243, R244) -/

theorem exec_inertR (width : Nat) (s : State) :
    exec (.inertR width) s = .next (s.answer (inertData width)) := rfl

theorem exec_inertW (data : BusData) (s : State) : exec (.inertW data) s = .next s := rfl

theorem sameBlock_refl (s : State) : sameBlock s s := by
  refine ⟨fun _ => rfl, fun _ => rfl, rfl, fun _ _ => rfl, ?engine, ⟨rfl, rfl⟩, ?protocol,
    ?outside⟩
  case engine => exact ⟨rfl, rfl, rfl, rfl⟩
  case protocol => exact ⟨rfl, rfl, rfl, rfl⟩
  case outside => exact ⟨⟨rfl, rfl, rfl⟩, rfl, rfl, rfl⟩

/-- Settles O23: the write answers the state as it was, and a 4-byte read of any state answers the
constant. -/
theorem inertWritesAreIgnored : Obligations.InertWritesAreIgnored := by
  intro s data
  refine ⟨s, exec_inertW data s, sameBlock_refl s, rfl, _, exec_inertR 4 s, ?constant⟩
  case constant => exact congrArg some inertData_four

end Sys2Proof.Machine

/-! PROOFS. Decoding and encoding (30_encoding.md): the packets of one window or format each, the
round trip of every operation, and which transactions have an operation. -/

namespace Sys2Proof.Machine

open Sys2Proof.Claims

/-! ### Packets of one kind -/

/-- A read of at least one byte is told by its window. -/
theorem decode_readPacket (w : Window) (off : Nat) {width : Nat} (h : 0 < width) :
    decode (readPacket w off width) = decodeRead w off width := if_neg (Nat.pos_iff_ne_zero.mp h)

/-- A write of at least one byte is told by its window. -/
theorem decode_writePacket (w : Window) (off : Nat) {data : BusData} (h : data ≠ []) :
    decode (writePacket w off data) = decodeWrite w off data := if_neg h

/-- A one-byte read of a table entry. -/
theorem decode_enctab_read (k : Byte) :
    decode (readPacket .enctab k.toNat 1) = .ok (.enctabR k) := by
  have offInWindow : ¬256 ≤ k.toNat := by omega
  simp [decode_readPacket, decodeRead, offInWindow]

/-- A 4-byte read of the register window (R85, R90). -/
theorem decode_mcureg_read (a : Nat) :
    decode (readPacket .mcureg a 4) = .ok (.mcuregR (regIndex a)) := rfl

/-- A 32-bit write at the lowest address of a register. -/
theorem decode_mcureg_writeWord (idx : Fin 8) (v : Word) :
    decode (writePacket .mcureg (regAddress idx) (wordData v)) = .ok (decodeRegWrite idx v) := by
  rw [wordData, decode_mcureg_write, regIndex_regAddress, wordOfBytes_byteOf]

/-- A 32-bit write of the sprite-key register. -/
theorem decode_sprkey_writeWord (v : Word) :
    decode (writePacket .sprkey 0 (wordData v)) = .ok (.sprkeyW v) :=
  congrArg (fun w => Except.ok (Instr.sprkeyW w)) (wordOfBytes_byteOf v)

/-! ### The round trip of an operation -/

/-- Settles O1: by the operation's format and window; a command by its command byte. -/
theorem decodeOfEncodeIsTheOperation : Obligations.DecodeOfEncodeIsTheOperation := by
  intro i hi
  cases i with
  | enctabW k v => exact decode_enctab_write k v
  | enctabR k => exact decode_enctab_read k
  | shareR o => exact decode_share_read o
  | shareW o v => exact decode_share_write o v
  | sprkeyW v => exact decode_sprkey_writeWord v
  | dectrigR width | sprkeyR width | bankselR width | inertR width =>
    exact decode_readPacket _ 0 (of_decide_eq_true hi)
  | dectrigW data | bankselW data | rtcW data | inertW data =>
    exact decode_writePacket _ 0 (by simpa [Instr.wellFormed] using hi)
  | mcuregR idx =>
    rw [encode, decode_mcureg_read, regIndex_regAddress]
  | mcuregW idx v =>
    obtain ⟨notIssue, notAck⟩ : idx ≠ 2 ∧ idx ≠ 5 := of_decide_eq_true hi
    rw [encode, decode_mcureg_writeWord, decodeRegWrite, if_neg notIssue, if_neg notAck]
  | mcuIssue v => exact decode_mcureg_writeWord 2 v
  | mcuAck v => exact decode_mcureg_writeWord 5 v
  | rtcR | wdeca | wdecb | crepack | modxor | decryptTitle | progdec | timerFire | frameTick => rfl
  | getres a => exact decode_commandWord 0xF6#8 a
  | echo a => exact decode_commandWord 0xE0#8 a
  | shfill a => exact decode_commandWord 0xE1#8 a
  | ccheck a => exact decode_commandWord 0xC0#8 a
  | cready a => exact decode_commandWord 0xC1#8 a
  | cread a => exact decode_commandWord 0xC2#8 a
  | cwrite a => exact decode_commandWord 0xC3#8 a
  | cstub4 a => exact decode_commandWord 0xC4#8 a
  | cstub5 a => exact decode_commandWord 0xC5#8 a
  | cstub6 a => exact decode_commandWord 0xC6#8 a
  | cident a => exact decode_commandWord 0xC7#8 a
  | cwrbyte a => exact decode_commandWord 0xC8#8 a
  | cstub9 a => exact decode_commandWord 0xC9#8 a
  | unknown c a =>
    have unlisted : c ∉ listedCommands := by simpa [Instr.wellFormed] using hi
    rw [encode, decode_commandWord, cmdOp_of_not_listed unlisted, CmdOp.toInstr]

/-- Settles O2: the operation is the one that the word's command byte selects. -/
theorem everyCommandWordIsOneCommand : Obligations.EveryCommandWordIsOneCommand := by
  intro w
  obtain ⟨encoded, formed, format⟩ := cmdOp_toInstr (byteOf w 0) (argsOf w)
  exact ⟨decodeCommand w, rfl, formed, format, encoded.trans (by rw [commandWord_argsOf])⟩

/-! ### Which transactions have an operation (20_memory.md R55) -/

/-- A decoder that refuses first has an operation where it does not refuse and the rest has one. -/
theorem exists_ok_guarded_iff {refuse : Prop} [Decidable refuse] {e : DecodeError}
    {rest : Except DecodeError Instr} :
    (∃ i, (if refuse then .error e else rest) = .ok i) ↔ ¬refuse ∧ ∃ i, rest = .ok i := by
  by_cases h : refuse
  case pos => simp [h]
  case neg => simp [h]

/-- A read has an operation at the widths and offsets that its window admits. -/
theorem decodeRead_ok_iff (w : Window) (off : Nat) {width : Nat} (h : 0 < width) :
    (∃ i, decodeRead w off width = .ok i) ↔ admitted ⟨w, off, .read width⟩ := by
  cases w with
  | dectrig | sprkey | banksel | inert => exact iff_of_true ⟨_, rfl⟩ h
  | mcureg | enctab | rtc | share =>
    simp only [decodeRead, exists_ok_guarded_iff, admitted, Except.ok.injEq, exists_eq', and_true]
    omega

/-- A write has an operation at the widths and offsets that its window admits. -/
theorem decodeWrite_ok_iff (w : Window) (off : Nat) {data : BusData} (h : data ≠ []) :
    (∃ i, decodeWrite w off data = .ok i) ↔ admitted ⟨w, off, .write data⟩ := by
  cases w with
  | dectrig | banksel | rtc | inert =>
    exact iff_of_true ⟨_, rfl⟩ (List.length_pos_iff.mpr h)
  | enctab =>
    match data with
    | [] | _ :: _ :: _ => simp [decodeWrite, admitted]
    | [v] => simp [decodeWrite, exists_ok_guarded_iff, admitted]
  | share =>
    match data with
    | [] | _ :: _ :: _ => simp [decodeWrite, admitted]
    | [v] =>
      simp only [decodeWrite, exists_ok_guarded_iff, admitted, Except.ok.injEq, exists_eq',
        and_true, List.length_singleton, true_and]
      omega
  | mcureg =>
    match data with
    | [] | [_] | [_, _] | [_, _, _] | _ :: _ :: _ :: _ :: _ :: _ => simp [decodeWrite, admitted]
    | [b0, b1, b2, b3] => exact iff_of_true ⟨_, rfl⟩ rfl
  | sprkey =>
    match data with
    | [] | [_] | [_, _] | [_, _, _] | _ :: _ :: _ :: _ :: _ :: _ => simp [decodeWrite, admitted]
    | [b0, b1, b2, b3] =>
      simp only [decodeWrite, exists_ok_guarded_iff, admitted, Except.ok.injEq, exists_eq',
        and_true, List.length_cons, List.length_nil, true_and]
      omega

/-- No window admits a read of no bytes. -/
theorem not_admitted_read_zero (w : Window) (off : Nat) : ¬admitted ⟨w, off, .read 0⟩ := by
  cases w <;> simp [admitted]

/-- No window admits a write of no bytes. -/
theorem not_admitted_write_nil (w : Window) (off : Nat) : ¬admitted ⟨w, off, .write []⟩ := by
  cases w <;> simp [admitted]

/-- Settles O3: an empty access is refused by the decoder and admitted by no window; any other is
told by its direction. -/
theorem transactionsDecodeExactlyAtAdmittedWidths :
    Obligations.TransactionsDecodeExactlyAtAdmittedWidths := by
  rintro ⟨w, off, access⟩
  cases access with
  | read width =>
    by_cases h : width = 0
    case pos =>
      subst h
      exact iff_of_false (by simp [decode, decodeHost]) (not_admitted_read_zero w off)
    case neg =>
      have hpos := Nat.pos_of_ne_zero h
      rw [← decodeRead_ok_iff w off hpos, ← decode_readPacket w off hpos, readPacket]
  | write data =>
    by_cases h : data = []
    case pos =>
      subst h
      exact iff_of_false (by simp [decode, decodeHost]) (not_admitted_write_nil w off)
    case neg => rw [← decodeWrite_ok_iff w off h, ← decode_writePacket w off h, writePacket]

/-! ### The register index (R85) -/

/-- The index is the masked address in R85's own formula. -/
theorem regIndex_val (a : Nat) : (regIndex a).val = (a >>> 15) &&& 7 :=
  (Nat.and_two_pow_sub_one_eq_mod (a >>> 15) 3).symm

/-- Settles O4: a read and each kind of write by the index of its address. -/
theorem registerIndexIsAddressBits17To15 : Obligations.RegisterIndexIsAddressBits17To15 := by
  intro a b0 b1 b2 b3
  refine ⟨regIndex a, regIndex_val a, decode_mcureg_read a, ?issue, ?ack, ?other⟩
  case issue =>
    intro h
    rw [decode_mcureg_write, decodeRegWrite, if_pos (Fin.ext h), wordOfBytes]
  case ack =>
    intro h
    have notIssue : regIndex a ≠ 2 := fun h2 => by simp [h2] at h
    rw [decode_mcureg_write, decodeRegWrite, if_neg notIssue, if_pos (Fin.ext h), wordOfBytes]
  case other =>
    intro h2 h5
    have notIssue : regIndex a ≠ 2 := fun h => h2 (congrArg Fin.val h)
    have notAck : regIndex a ≠ 5 := fun h => h5 (congrArg Fin.val h)
    rw [decode_mcureg_write, decodeRegWrite, if_neg notIssue, if_neg notAck, wordOfBytes]

end Sys2Proof.Machine

/-! PROOFS. The step (20_memory.md section 6): which operation it runs and when, what an enabled
operation and a whole step can do, and the rules that every step keeps. -/

namespace Sys2Proof.Machine

open Sys2Proof.Claims

/-! ### Which operation a step runs (00_scope.md R14, R40) -/

/-- Settles O6: the schedule's head is fetched, decoded, and passes its guard. -/
theorem stepRunsTheDecodedOperation : Obligations.StepRunsTheDecodedOperation := by
  intro s p rest i hs decoded enabled
  simp only [step, fetch, hs, runPacket, decoded, enabled]

/-- Settles O7: by whether the dispatcher routes the address. -/
theorem stepRoutesHostAddresses : Obligations.StepRoutesHostAddresses := by
  refine ⟨fun s addr access rest hs => ?access, fun s hs => ?idle⟩
  case access =>
    simp only [step, fetch, hs]
    cases routeAddress Config.cfg.busMap addr with
    | none => rfl
    | some route => rfl
  case idle => simp only [step, fetch, hs]

theorem agentGuard_of_hostbus {i : Instr} (h : i.format = .hostbus) (s : State) :
    agentGuard i s = if s.bootDone then none else some .hostBeforeBoot := by
  cases i with
  | enctabW | enctabR | dectrigR | dectrigW | sprkeyW | sprkeyR | bankselW | bankselR | shareR
  | shareW | mcuregR | mcuregW | mcuIssue | mcuAck | rtcR | rtcW | inertR | inertW => rfl
  | _ => cases h

theorem agentGuard_of_mcucmd {i : Instr} (h : i.format = .mcucmd) (s : State) :
    agentGuard i s = some .commandOutsideIssue := by
  cases i with
  | getres | echo | shfill | ccheck | cready | cread | cwrite | cstub4 | cstub5 | cstub6 | cident
  | cwrbyte | cstub9 | unknown => rfl
  | _ => cases h

theorem agentGuard_of_event {i : Instr} (h : i.format = .event) (s : State) :
    agentGuard i s = none := by
  cases i with
  | timerFire | frameTick => rfl
  | _ => cases h

/-- Of the engine's operations the boot step alone may be presented (R82, R110). -/
theorem agentGuard_of_engine {i : Instr} (h : i.format = .engine) (s : State) :
    agentGuard i s = none ↔ ∃ tk, i = .decryptTitle tk := by
  cases i with
  | decryptTitle tk => exact iff_of_true rfl ⟨tk, rfl⟩
  | wdeca | wdecb | crepack | modxor | progdec => simp [agentGuard]
  | _ => cases h

/-- Settles O9: by the operation's format. -/
theorem agentsAreEnabledInTheirPhase : Obligations.AgentsAreEnabledInTheirPhase := by
  intro i s
  have notTitle : i.format ≠ .engine → ¬∃ tk, i = .decryptTitle tk := by
    rintro h ⟨tk, rfl⟩
    exact h rfl
  cases h : i.format with
  | hostbus => simp [agentGuard_of_hostbus h, notTitle, h]
  | engine => simp [agentGuard_of_engine h]
  | mcucmd => simp [agentGuard_of_mcucmd h, notTitle, h]
  | event => simp [agentGuard_of_event h]

/-! ### What an enabled operation can do -/

/-- What an operation may do that neither moves the engine nor the event slot: bytes written inside
the two memories, a clock that does not run back, and records that are not the completion
interrupt. -/
structure QuietFrame (s t : State) : Prop where
  encTab : ∃ k vs, k + vs.length ≤ 256 ∧ t.encTab = Memory.writeList s.encTab k vs
  share : ∃ p vs, p + vs.length ≤ 256 ∧ t.share = Memory.writeList s.share p vs
  engine : sameEngine s t
  pending : t.pendingEvent = s.pendingEvent
  clock : s.rtcLast.toNat ≤ t.rtcLast.toNat
  events : ∃ ev, .irq .mcu ∉ ev ∧ t.events = s.events ++ ev

/-- An operation that touches none of these is quiet. -/
theorem QuietFrame.refl (s : State) : QuietFrame s s where
  encTab := ⟨0, [], by simp, rfl⟩
  share := ⟨0, [], by simp, rfl⟩
  engine := ⟨rfl, rfl, rfl, rfl⟩
  pending := rfl
  clock := Nat.le_refl _
  events := ⟨[], by simp, by simp⟩

/-- All that an operation can do which the schedule may present: the engine moves at the boot step
and at the first trigger, a completion is armed by an effective issue or acknowledge and taken by
its fire, and everything else is quiet. -/
inductive OpEffect (s : State) : Instr → State → Prop where
  | quiet {i : Instr} {t : State} (frame : QuietFrame s t) : OpEffect s i t
  | issue {v : Word} {t : State} (nonzero : v ≠ 0#32) (frame : CommandFrame s t) :
      OpEffect s (.mcuIssue v) t
  | acknowledge {v : Word} (nonzero : v ≠ 0#32) : OpEffect s (.mcuAck v)
      { (((s.setReg 5 v).setStatus Config.cfg.statusDone).arm Config.delayAck .ack) with
        lastCommand := 0#8 }
  | trigger {data : BusData} (booted : s.bootDone = true) (first : s.decryptFlag = false) :
      OpEffect s (.dectrigW data) { programDecrypt s with decryptFlag := true }
  | title {tk : TitleKeys} (rom : RomBank) (unbooted : s.bootDone = false) :
      OpEffect s (.decryptTitle tk) { s with
        rom := rom, bootDone := true, passes := s.passes ++ titlePasses Config.cfg tk }
  | fire (pending : s.pendingEvent ≠ none) :
      OpEffect s .timerFire ({ s with pendingEvent := none }.raiseIrq .mcu)

/-- The clock's answer is not below the bound (R245). -/
theorem rtcLast_le_rtcValue (s : State) : s.rtcLast.toNat ≤ (rtcValue s).toNat := by
  rw [rtcValue]
  split
  case isTrue => exact Nat.le_refl _
  case isFalse h => exact Nat.le_of_not_lt h

/-- The host is enabled after the boot step only (10_state.md R37). -/
theorem bootDone_of_host_enabled {i : Instr} {s : State} (hi : i.format = .hostbus)
    (enabled : agentGuard i s = none) : s.bootDone = true := by
  rw [agentGuard_of_hostbus hi] at enabled
  by_contra h
  simp [h] at enabled

/-- An enabled operation does one of these things. -/
theorem exec_effect {i : Instr} {s t : State} (enabled : agentGuard i s = none)
    (h : exec i s = .next t) : OpEffect s i t := by
  cases i with
  | enctabW k v =>
    cases h
    exact .quiet { QuietFrame.refl s with encTab := ⟨k.toNat, [v], k.isLt, rfl⟩ }
  | shareW o v =>
    cases h
    exact .quiet { QuietFrame.refl s with
      share := ⟨_, [v], portAIndex_lt s.shareBank o.isLt, rfl⟩ }
  | rtcR =>
    cases h
    exact .quiet { QuietFrame.refl s with clock := rtcLast_le_rtcValue s }
  | frameTick =>
    cases h
    exact .quiet { QuietFrame.refl s with events := ⟨[.irq .frame], by simp, rfl⟩ }
  | enctabR | dectrigR | sprkeyR | bankselW | bankselR | shareR | mcuregW | rtcW | inertR
  | inertW =>
    cases h
    exact .quiet { QuietFrame.refl s with }
  | sprkeyW v =>
    rw [exec_sprkeyW] at h
    cases h
    exact .quiet { QuietFrame.refl s with }
  | mcuregR idx =>
    simp only [exec, execMcuregR] at h
    split at h <;> cases h <;> exact .quiet { QuietFrame.refl s with }
  | mcuIssue v =>
    by_cases hv : v = 0#32
    case pos =>
      subst hv
      cases h
      exact .quiet { QuietFrame.refl s with }
    case neg => exact .issue hv (exec_issue_frame hv h)
  | mcuAck v =>
    simp only [exec, execMcuAck] at h
    split at h
    case isTrue =>
      cases h
      exact .quiet { QuietFrame.refl s with }
    case isFalse hv =>
      cases h
      exact .acknowledge fun h0 => hv (.inl h0)
  | dectrigW data =>
    cases hflag : s.decryptFlag with
    | true =>
      rw [exec_dectrigW_later data hflag] at h
      cases h
      exact .quiet (QuietFrame.refl s)
    | false =>
      rw [exec_dectrigW_first data hflag] at h
      cases h
      exact .trigger (bootDone_of_host_enabled rfl enabled) hflag
  | decryptTitle tk =>
    simp only [exec, execDecryptTitle] at h
    split at h
    case isTrue => cases h
    case isFalse hboot =>
      split at h
      case h_1 rom _ =>
        cases h
        exact .title rom (Bool.eq_false_iff.mpr hboot)
      case h_2 => cases h
  | timerFire =>
    simp only [exec, execTimerFire] at h
    split at h
    case h_1 hp =>
      cases h
      exact .fire (by simp [hp])
    case h_2 => cases h
  | wdeca | wdecb | crepack | modxor | progdec => cases enabled
  | getres | echo | shfill | ccheck | cready | cread | cwrite | cstub4 | cstub5 | cstub6 | cident
  | cwrbyte | cstub9 | unknown => rw [agentGuard_of_mcucmd rfl] at enabled; cases enabled

/-! ### What a step can do -/

/-- All that a step can do: nothing to the block (a card may come or go), an enabled operation, or
one of the two resets. -/
inductive StepEffect (s : State) : State → Prop where
  | outside (rest : List Input) (cards : Vector (Option (List Byte)) 4) :
      StepEffect s { s with schedule := rest, cards := cards }
  | operation {i : Instr} {t : State} (rest : List Input) (shown : presented s = some i)
      (effect : OpEffect { s with schedule := rest } i t) : StepEffect s t
  | warm (rest : List Input) (next : resetNext s = true) :
      StepEffect s (warmReset { s with schedule := rest })
  | cold (rest : List Input) (rom : RomBank) (title : TitleKeys) (next : coldResetNext s = true)
      (isReset : resetNext s = true) : StepEffect s (coldReset rom title { s with schedule := rest })

theorem step_effect {s t : State} (h : step s = .next t) : StepEffect s t := by
  rcases step_cases h with ⟨-, rfl⟩ | ⟨_, _, rest, -, -, rfl⟩ |
    ⟨_, rest, i, -, -, -, shown, enabled, hx⟩ | ⟨slot, image, rest, -, -, rfl⟩ |
    ⟨slot, rest, -, -, rfl⟩ | ⟨rest, hs, rfl⟩ | ⟨_, title, rest, rom, hs, -, rfl⟩
  case inl => exact .outside t.schedule t.cards
  case inr.inl => exact .outside rest s.cards
  case inr.inr.inl => exact .operation rest shown (exec_effect enabled hx)
  case inr.inr.inr.inl | inr.inr.inr.inr.inl => exact .outside rest _
  case inr.inr.inr.inr.inr.inl => exact .warm rest (by simp [resetNext, hs])
  case inr.inr.inr.inr.inr.inr =>
    exact .cold rest rom title (by simp [coldResetNext, hs]) (by simp [resetNext, hs])

end Sys2Proof.Machine

/-! PROOFS. What every step keeps (10_state.md R43): the invariants, the one decryption pass of each
buffer, and the completion interrupt's one source. -/

namespace Sys2Proof.Machine

open Sys2Proof.Claims

/-! ### The invariants -/

/-- Settles O13: nothing is written, nothing has passed, nothing is pending. -/
theorem resetStateMeetsTheInvariants : Obligations.ResetStateMeetsTheInvariants where
  one_pass := List.nodup_nil
  no_pass_before_boot _ := rfl
  no_program_pass_before_trigger _ := List.not_mem_nil
  encTab_wf := rfl
  encTab_below := rfl
  share_wf := rfl
  share_below := rfl
  decrypted_after_boot h := nomatch h
  pending_legal _ h := nomatch h

/-- A title's passes are of distinct transforms, and the program's cipher is not among them. -/
theorem titlePasses_nodup (c : Cfg) (tk : TitleKeys) :
    (titlePasses c tk).Nodup ∧ ⟨.progdec, .program⟩ ∉ titlePasses c tk := by
  cases h : tk.moduleLayer <;> simp [titlePasses, h]

theorem inv_quiet {s t : State} (hs : Inv s) (h : QuietFrame s t) : Inv t := by
  obtain ⟨k, vs, hk, encTab⟩ := h.encTab
  obtain ⟨p, ws, hp, share⟩ := h.share
  obtain ⟨flag, boot, -, passes⟩ := h.engine
  exact {
    one_pass := passes ▸ hs.one_pass
    no_pass_before_boot := by rw [boot, passes]; exact hs.no_pass_before_boot
    no_program_pass_before_trigger := by
      rw [flag, passes]; exact hs.no_program_pass_before_trigger
    encTab_wf := encTab ▸ Memory.wf_writeList vs k hs.encTab_wf
    encTab_below := encTab ▸ Memory.below_writeList vs hk hs.encTab_below
    share_wf := share ▸ Memory.wf_writeList ws p hs.share_wf
    share_below := share ▸ Memory.below_writeList ws hp hs.share_below
    decrypted_after_boot := by rw [flag, boot]; exact hs.decrypted_after_boot
    pending_legal := by rw [h.pending]; exact hs.pending_legal }

/-- A command writes inside the opposite bank and arms a legal completion. -/
theorem inv_command {s t : State} (hs : Inv s) (h : CommandFrame s t) : Inv t := by
  obtain ⟨vs, hvs, _, -, count, hcount, ht⟩ := h
  have inBank : portBIndex s.shareBank 0 + vs.length ≤ 256 := by
    have : portBIndex s.shareBank 0 ≤ 128 := by
      simp only [portBIndex]
      omega
    omega
  rw [ht]
  exact { hs with
    share_wf := Memory.wf_writeList vs _ hs.share_wf
    share_below := Memory.below_writeList vs inBank hs.share_below
    pending_legal := by
      rintro _ ⟨⟩
      rcases hcount with rfl | rfl <;> rfl }

/-- The first trigger adds the one pass that the guard has kept out so far. -/
theorem inv_trigger {s : State} (hs : Inv s) (booted : s.bootDone = true)
    (first : s.decryptFlag = false) : Inv { programDecrypt s with decryptFlag := true } := by
  have passes : (s.passes ++ [(⟨.progdec, .program⟩ : Pass)]).Nodup := by
    rw [← List.concat_eq_append]
    exact hs.one_pass.concat (hs.no_program_pass_before_trigger first)
  exact { hs with
    one_pass := passes
    no_pass_before_boot := fun h => nomatch booted.symm.trans h
    no_program_pass_before_trigger := fun h => nomatch h
    decrypted_after_boot := fun _ => booted }

/-- The boot step's passes are the first ones. -/
theorem inv_title {s : State} (hs : Inv s) (tk : TitleKeys) (rom : RomBank)
    (unbooted : s.bootDone = false) : Inv { s with
      rom := rom, bootDone := true, passes := s.passes ++ titlePasses Config.cfg tk } := by
  obtain ⟨nodup, noProgram⟩ := titlePasses_nodup Config.cfg tk
  rw [hs.no_pass_before_boot unbooted, List.nil_append]
  exact { hs with
    one_pass := nodup
    no_pass_before_boot := fun h => nomatch h
    no_program_pass_before_trigger := fun _ => noProgram
    decrypted_after_boot := fun _ => rfl }

theorem inv_operation {i : Instr} {s t : State} (hs : Inv s) (h : OpEffect s i t) : Inv t := by
  cases h with
  | quiet frame => exact inv_quiet hs frame
  | issue _ frame => exact inv_command hs frame
  | acknowledge =>
    exact { hs with
      pending_legal := by
        rintro _ ⟨⟩
        rfl }
  | trigger booted first => exact inv_trigger hs booted first
  | title rom unbooted => exact inv_title hs _ rom unbooted
  | fire => exact { hs with pending_legal := fun _ h => nomatch h }

/-- A warm reset clears all that the invariants speak of, but for what the engine has done. -/
theorem inv_warmReset {s : State} (hs : Inv s) : Inv (warmReset s) :=
  { resetStateMeetsTheInvariants with
    one_pass := hs.one_pass
    no_pass_before_boot := hs.no_pass_before_boot
    no_program_pass_before_trigger := hs.no_program_pass_before_trigger
    decrypted_after_boot := hs.decrypted_after_boot }

theorem inv_coldReset (rom : RomBank) (title : TitleKeys) (s : State) :
    Inv (coldReset rom title s) := { resetStateMeetsTheInvariants with }

/-- Settles O14: by what the step can do. -/
theorem everyStepKeepsTheInvariants : Obligations.EveryStepKeepsTheInvariants := by
  intro s t hs h
  cases step_effect h with
  | outside rest cards => exact { hs with }
  | operation rest _ effect =>
    have hrest : Inv { s with schedule := rest } := { hs with }
    exact inv_operation hrest effect
  | warm rest => exact inv_warmReset { hs with }
  | cold rest rom title => exact inv_coldReset rom title _

/-! ### The buffers after the boot step -/

/-- The cipher answers as many words as it gets (41_decrypt_engine.md R151). -/
theorem length_progCipher (c : Cfg) (table : List Byte) (key : SubKey) (words : List Half) :
    (progCipher c table key words).length = words.length := by simp [progCipher]

/-- Settles O15: of what a step can do, the first trigger alone moves the engine after the boot
step. -/
theorem romBuffersHaveOnePassAfterBoot : Obligations.RomBuffersHaveOnePassAfterBoot := by
  intro s t booted notCold h
  have unmoved : ∀ u : State, u.decryptFlag = s.decryptFlag → u.bootDone = s.bootDone →
      u.rom = s.rom → u.bootDone = true ∧ u.rom.spriteMask = s.rom.spriteMask ∧
        u.rom.spriteColor = s.rom.spriteColor ∧ u.rom.tile = s.rom.tile ∧
        u.rom.program.length = s.rom.program.length ∧
        (s.decryptFlag = true → u.decryptFlag = true) ∧
        (u.rom.program ≠ s.rom.program → s.decryptFlag = false ∧ u.decryptFlag = true) := by
    intro u flag boot rom
    simp [flag, boot, rom, booted]
  cases step_effect h with
  | outside | warm => exact unmoved _ rfl rfl rfl
  | cold _ _ _ next => exact nomatch notCold.symm.trans next
  | operation rest _ effect =>
    cases effect with
    | quiet frame =>
      obtain ⟨flag, boot, rom, -⟩ := frame.engine
      exact unmoved t flag boot rom
    | issue _ frame =>
      obtain ⟨_, -, _, -, _, -, ht⟩ := frame
      rw [ht]
      exact unmoved _ rfl rfl rfl
    | acknowledge | fire => exact unmoved _ rfl rfl rfl
    | trigger _ first =>
      exact ⟨booted, rfl, rfl, rfl, length_progCipher .., fun _ => rfl, fun _ => ⟨first, rfl⟩⟩
    | title rom unbooted => exact nomatch booted.symm.trans unbooted

/-! ### The completion interrupt and the event slot (60_exceptions.md R263, R219) -/

/-- Settles O16: of what a step can do, the fire alone appends the completion interrupt. -/
theorem onlyTheTimerRaisesTheCompletionInterrupt :
    Obligations.OnlyTheTimerRaisesTheCompletionInterrupt := by
  intro s t notCold h
  cases step_effect h with
  | outside | warm => exact ⟨[], by simp [warmReset], by simp⟩
  | cold _ _ _ next => exact nomatch notCold.symm.trans next
  | operation rest shown effect =>
    cases effect with
    | quiet frame =>
      obtain ⟨ev, noIrq, events⟩ := frame.events
      exact ⟨ev, events, fun h => absurd h noIrq⟩
    | issue _ frame =>
      obtain ⟨_, -, ev, noIrq, _, -, ht⟩ := frame
      exact ⟨ev, by rw [ht], fun h => absurd h noIrq⟩
    | acknowledge | trigger | title => exact ⟨[], by simp, by simp⟩
    | fire pending => exact ⟨[.irq .mcu], rfl, fun _ => ⟨shown, rfl, pending, rfl⟩⟩

/-- An armed completion stays pending or fires, whatever is not a reset. -/
theorem completion_stays_or_fires {s t : State} (notReset : resetNext s = false)
    (pending : s.pendingEvent ≠ none) (h : step s = .next t) :
    t.pendingEvent ≠ none ∨ t.events = s.events ++ [.irq .mcu] := by
  cases step_effect h with
  | outside => exact .inl pending
  | warm _ next | cold _ _ _ _ next => exact nomatch notReset.symm.trans next
  | operation rest _ effect =>
    cases effect with
    | quiet frame => exact .inl (frame.pending ▸ pending)
    | issue _ frame =>
      obtain ⟨_, -, _, -, _, -, ht⟩ := frame
      rw [ht]
      exact .inl (Option.some_ne_none _)
    | acknowledge => exact .inl (by simp)
    | trigger | title => exact .inl pending
    | fire => exact .inr rfl

/-- Software that keeps the discipline does not replace a pending completion. -/
theorem completion_kept_under_discipline {s t : State} {c : Completion}
    (notReset : resetNext s = false) (disc : disciplined s = true)
    (pending : s.pendingEvent = some c) (h : step s = .next t) :
    t.pendingEvent = some c ∨ (t.pendingEvent = none ∧ t.events = s.events ++ [.irq .mcu]) := by
  cases step_effect h with
  | outside => exact .inl pending
  | warm _ next | cold _ _ _ _ next => exact nomatch notReset.symm.trans next
  | operation rest shown effect =>
    cases effect with
    | quiet frame => exact .inl (frame.pending.trans pending)
    | issue nonzero => simp [disciplined, shown, pending, nonzero] at disc
    | acknowledge nonzero => simp [disciplined, shown, pending, nonzero] at disc
    | trigger | title => exact .inl pending
    | fire => exact .inr ⟨rfl, rfl⟩

/-- Settles O17: what any step does to the slot, and what a disciplined one does. -/
theorem completionsAreReplacedOrFireButNeverCancelled :
    Obligations.CompletionsAreReplacedOrFireButNeverCancelled :=
  ⟨fun _ _ notReset pending h => completion_stays_or_fires notReset pending h,
    fun _ _ _ notReset disc pending h =>
      completion_kept_under_discipline notReset disc pending h⟩

end Sys2Proof.Machine

/-! PROOFS. The Address Dispatcher and the host's transactions (45_dispatcher_rtc_card.md,
41_decrypt_engine.md section 3, 43_share_ram.md): where an address goes, what each read answers,
the trigger, the clock, the register window. -/

namespace Sys2Proof.Machine

open Sys2Proof.Claims

/-! ### The dispatcher (R241) -/

theorem inWindow_iff (m : BusMap) (w : Window) (A : Nat) :
    inWindow m w A = true ↔ m.base w ≤ A ∧ A < m.base w + windowSize m.regUnit w :=
  decide_eq_true_iff

/-- The window offset in one formula: `MCUREG` counts in its own unit, every other window bytes. -/
theorem windowOffset_eq (m : BusMap) (w : Window) (A : Nat) : windowOffset m w A =
    if w = .mcureg then (A - m.base w) / unitBytes m.regUnit else A - m.base w := by
  cases w <;> rfl

/-- On a legal map no address lies in two windows. -/
theorem inWindow_unique {m : BusMap} {w w' : Window} {A : Nat} (legal : legalMap m)
    (hw : w ∈ routedWindows) (hw' : w' ∈ routedWindows) (h : inWindow m w A = true)
    (h' : inWindow m w' A = true) : w' = w := by
  rw [inWindow_iff] at h h'
  by_contra hne
  rcases legal.2 w' hw' w hw hne with hsep | hsep <;> omega

/-- On a legal map the search finds the window that holds the address. -/
theorem find_window {m : BusMap} {w : Window} {A : Nat} (legal : legalMap m)
    (hw : w ∈ routedWindows) (h : inWindow m w A = true) :
    routedWindows.find? (fun w => inWindow m w A) = some w := by
  cases found : routedWindows.find? (fun w => inWindow m w A) with
  | none => exact absurd h (List.find?_eq_none.mp found w hw)
  | some w' =>
    have := inWindow_unique legal hw (List.mem_of_find?_eq_some found) h
      (List.find?_some (p := fun w => inWindow m w A) found)
    rw [this]

/-- Settles O8: a window's address is found there and lies in `RANGE`; the rest of `RANGE` is found
in no window. -/
theorem dispatcherRoutesByAddressRange : Obligations.DispatcherRoutesByAddressRange := by
  intro m A legal
  refine ⟨fun w hw hlo hhi => ?window, fun hnone hlo hhi => ?inert, fun hout => ?outside⟩
  case window =>
    have inside : m.rangeBase ≤ A ∧ A < m.rangeBase + m.rangeSize := by
      obtain ⟨hbase, hend⟩ := legal.1 w hw
      omega
    rw [routeAddress, if_pos inside, find_window legal hw ((inWindow_iff m w A).mpr ⟨hlo, hhi⟩),
      ← windowOffset_eq]
  case inert =>
    have found : routedWindows.find? (fun w => inWindow m w A) = none :=
      List.find?_eq_none.mpr fun w hw h => hnone w hw ((inWindow_iff m w A).mp h)
    exact ⟨A - m.rangeBase, by rw [routeAddress, if_pos ⟨hlo, hhi⟩, found]⟩
  case outside => rw [routeAddress, if_neg hout]

/-! ### Reads without a side effect (R147, R148, R174, R192) -/

/-- The answer of a read is no part of the block. -/
theorem sameBlock_answer (s : State) (data : BusData) : sameBlock s (s.answer data) :=
  sameBlock_refl s

/-- Neither is the count of free values. -/
theorem sameBlock_tick (s : State) (data : BusData) : sameBlock s (s.answer data).tick :=
  sameBlock_refl s

theorem exec_enctabR (k : Byte) (s : State) :
    exec (.enctabR k) s = .next (s.answer [s.encTabByte k.toNat]) := rfl

theorem exec_shareR (o : BitVec 7) (s : State) :
    exec (.shareR o) s = .next (s.answer [s.portARead o.toNat]) := rfl

/-- Settles O21: both reads answer their byte. -/
theorem byteReadsAnswerTheStoredByte : Obligations.ByteReadsAnswerTheStoredByte :=
  ⟨fun s k => ⟨_, exec_enctabR k s, rfl, sameBlock_answer s _⟩,
    fun s o => ⟨_, exec_shareR o s, rfl, sameBlock_answer s _⟩⟩

/-- The four reads without a function answer alike. -/
theorem exec_inert_read {i : Instr} {width : Nat} (s : State)
    (hi : i = .dectrigR width ∨ i = .sprkeyR width ∨ i = .bankselR width ∨ i = .inertR width) :
    exec i s = .next (s.answer (inertData width)) := by
  rcases hi with rfl | rfl | rfl | rfl <;> rfl

theorem length_inertData (width : Nat) : (inertData width).length = width := by simp [inertData]

/-- The low bytes of an inert read are the constant's. -/
theorem inertData_getElem? {width k : Nat} (hw : k < width) (h4 : k < 4) :
    (inertData width)[k]? = some (byteOf Config.cfg.inertReadValue k) := by
  simp [inertData, hw, inertByte_of_lt h4]

/-- Settles O22: the common answer of the four reads, byte by byte. -/
theorem inertReadsAnswerTheFixedValue : Obligations.InertReadsAnswerTheFixedValue := by
  intro s width i hi
  exact ⟨_, _, exec_inert_read s hi, rfl, length_inertData width,
    fun _ hw h4 => inertData_getElem? hw h4, sameBlock_answer s _⟩

/-- What a register read answers: the register, or a free value while the mailbox is unsettled. -/
def registerAnswer (s : State) (idx : Fin 8) : Word :=
  if mailboxUnsettled s idx then Config.earlyMailbox s.draws else s.reg idx

theorem exec_mcuregR (idx : Fin 8) (s : State) : ∃ t, exec (.mcuregR idx) s = .next t ∧
    t.readData = some (wordData (registerAnswer s idx)) ∧ sameBlock s t := by
  cases h : mailboxUnsettled s idx with
  | true =>
    refine ⟨(s.answer (wordData (Config.earlyMailbox s.draws))).tick, ?_, ?_, sameBlock_tick s _⟩
    · simp [exec, execMcuregR, h]
    · simp [registerAnswer, h]
  | false =>
    refine ⟨s.answer (wordData (s.reg idx)), ?_, ?_, sameBlock_answer s _⟩
    · simp [exec, execMcuregR, h]
    · simp [registerAnswer, h]

/-- The mailbox is unsettled exactly while a completion is pending (R302). -/
theorem mailboxUnsettled_iff (s : State) (idx : Fin 8) :
    mailboxUnsettled s idx = true ↔ (idx = 3 ∨ idx = 4) ∧ s.pendingEvent ≠ none := by
  simp [mailboxUnsettled, Option.isSome_iff_ne_none]

/-- Settles O31: by `registerAnswer`, which is the register where the mailbox is settled. -/
theorem registerReadAnswersTheRegister : Obligations.RegisterReadAnswersTheRegister := by
  intro s idx
  obtain ⟨t, ht, answer, block⟩ := exec_mcuregR idx s
  exact ⟨t, registerAnswer s idx, ht, answer, block, fun settled =>
    if_neg fun h => settled ((mailboxUnsettled_iff s idx).mp h)⟩

/-! ### The register write (R191) -/

/-- The frame of a register write: all that is not the register. -/
theorem setReg_frame (s : State) (idx : Fin 8) (v : Word) :
    let t := s.setReg idx v
    sameRegsBut [idx] s t ∧ sameEncTab s t ∧ sameShare s t ∧ t.shareBank = s.shareBank ∧
      sameEngine s t ∧ sameKeys s t ∧ sameProtocol s t ∧ sameOutside s t ∧
      t.readData = s.readData := by
  obtain ⟨encTab, share, bank, -, engine, keys, protocol, outside⟩ := sameBlock_refl s
  exact ⟨fun j hj => reg_setReg_other s v (List.ne_of_not_mem_cons hj), encTab, share, bank, engine,
    keys, protocol, outside, rfl⟩

/-- Settles O32: the register by its read-after-write law, the rest by the frame. -/
theorem registerWriteStoresTheRegister : Obligations.RegisterWriteStoresTheRegister := by
  intro s idx v _ _
  exact ⟨s.setReg idx v, rfl, reg_setReg_same s idx v, setReg_frame s idx v⟩

/-! ### The trigger and its body (R149, R150) -/

/-- The cipher's words, one by one. -/
theorem progCipher_getElem? (c : Cfg) (table : List Byte) (key : SubKey) {words : List Half}
    {j : Nat} (h : j < words.length) :
    (progCipher c table key words)[j]? = some (c.cipherWord table key words j) := by
  simp [progCipher, h]

/-- What the cipher's pass leaves, whatever flag goes with it. -/
theorem programPass_frame (s : State) (flag : Bool) :
    let t := { programDecrypt s with decryptFlag := flag }
    t.rom.program.length = s.rom.program.length ∧
    (∀ j, j < s.rom.program.length → t.rom.program[j]? =
      some (Config.cfg.cipherWord ((List.range 256).map s.encTabByte) s.title.subKey
        s.rom.program j)) ∧
    t.rom.spriteMask = s.rom.spriteMask ∧ t.rom.spriteColor = s.rom.spriteColor ∧
    t.rom.tile = s.rom.tile ∧
    t.passes = s.passes ++ [{ transform := .progdec, region := .program }] ∧
    sameEncTab s t ∧ sameShare s t ∧ t.shareBank = s.shareBank ∧
    sameRegsBut [] s t ∧ sameKeys s t ∧ sameProtocol s t ∧ sameOutside s t := by
  obtain ⟨encTab, share, bank, regs, -, keys, protocol, outside⟩ := sameBlock_refl s
  exact ⟨length_progCipher .., fun _ hj => progCipher_getElem? _ _ _ hj, rfl, rfl, rfl, rfl, encTab,
    share, bank, regs, keys, protocol, outside⟩

theorem exec_progdec (s : State) : exec .progdec s = .next (programDecrypt s) := rfl

/-- Settles O24: the first trigger and `PROGDEC` are the cipher's pass, with and without the flag; a
later trigger answers the state as it was. -/
theorem triggerDecryptsTheProgramOnce : Obligations.TriggerDecryptsTheProgramOnce := by
  refine ⟨?pass, fun s data h => ⟨s, exec_dectrigW_later data h, sameBlock_refl s⟩⟩
  case pass =>
    rintro s data i (⟨rfl, first⟩ | rfl)
    case inl =>
      exact ⟨_, exec_dectrigW_first data first, (if_neg (by simp)).symm, rfl,
        programPass_frame s true⟩
    case inr =>
      exact ⟨_, exec_progdec s, (if_pos rfl).symm, rfl, programPass_frame s s.decryptFlag⟩

/-! ### The clock (R245, R246) -/

/-- No step but a cold reset lowers the clock's bound. -/
theorem rtcLast_le_of_step {s t : State} (notCold : coldResetNext s = false)
    (h : step s = .next t) : s.rtcLast.toNat ≤ t.rtcLast.toNat := by
  cases step_effect h with
  | outside | warm => exact Nat.le_refl _
  | cold _ _ _ next => exact nomatch notCold.symm.trans next
  | operation rest _ effect =>
    cases effect with
    | quiet frame => exact frame.clock
    | issue _ frame =>
      obtain ⟨_, -, _, -, _, -, ht⟩ := frame
      rw [ht]
    | acknowledge | trigger | title | fire => exact Nat.le_refl _

/-- Settles O30: the answer by `rtcValue`'s law, the ignored write, and the bound over a step. -/
theorem clockAnswersNeverDecrease : Obligations.ClockAnswersNeverDecrease := by
  refine ⟨fun s => ?read, fun s data => ⟨s, rfl, sameBlock_refl s⟩,
    fun s t notCold h => rtcLast_le_of_step notCold h⟩
  case read =>
    obtain ⟨encTab, share, bank, regs, engine, keys, protocol, run, cards, -, events⟩ :=
      sameBlock_refl s
    exact ⟨_, rtcValue s, rfl, rfl, rtcLast_le_rtcValue s, rfl, encTab, share, bank, regs, engine,
      keys, protocol, run, cards, events⟩

/-! ### What the host can learn by reading (20_memory.md R62) -/

/-- States that agree on a register and on whether the mailbox is settled answer alike. -/
theorem registerAnswer_congr {s s' : State} {idx : Fin 8} (agree : hostAgrees s s')
    (mailbox : idx = 3 ∨ idx = 4 → s.pendingEvent.isSome = s'.pendingEvent.isSome) :
    registerAnswer s idx = registerAnswer s' idx := by
  obtain ⟨-, -, regs, -, draws⟩ := agree
  have unsettled : mailboxUnsettled s idx = mailboxUnsettled s' idx := by
    by_cases h : idx = 3 ∨ idx = 4
    case pos => rw [mailboxUnsettled, mailboxUnsettled, mailbox h]
    case neg =>
      rw [Bool.eq_iff_iff, mailboxUnsettled_iff, mailboxUnsettled_iff]
      exact iff_of_false (fun u => h u.1) (fun u => h u.1)
  rw [registerAnswer, registerAnswer, unsettled, regs idx, draws]

/-- Settles O18: each read answers from what the states agree on. -/
theorem hostReadsRevealNoHiddenState : Obligations.HostReadsRevealNoHiddenState := by
  intro i s s' t t' isRead agree mailbox ht ht'
  have ⟨encTab, portA, _, clock, draws⟩ := agree
  cases i with
  | enctabR k =>
    cases ht
    cases ht'
    exact congrArg (fun b => some [b]) (encTab k.toNat)
  | shareR o =>
    cases ht
    cases ht'
    exact congrArg (fun b => some [b]) (portA o.toNat o.isLt)
  | dectrigR | sprkeyR | bankselR | inertR =>
    cases ht
    cases ht'
    rfl
  | rtcR =>
    cases ht
    cases ht'
    have answer : rtcValue s = rtcValue s' := by rw [rtcValue, rtcValue, clock, draws]
    exact congrArg (fun v => some (wordData v)) answer
  | mcuregR idx =>
    obtain ⟨u, hu, answer, -⟩ := exec_mcuregR idx s
    obtain ⟨u', hu', answer', -⟩ := exec_mcuregR idx s'
    cases hu.symm.trans ht
    cases hu'.symm.trans ht'
    rw [answer, answer', registerAnswer_congr agree (mailbox idx rfl)]
  | _ => cases isRead

end Sys2Proof.Machine

/-! PROOFS. The command rules (44_mcu_protocol.md sections 2 and 3): the common end of every command
but `GETRES`, the copies between a card and the opposite bank, and each command's own statement. -/

namespace Sys2Proof.Machine

open Sys2Proof.Claims

/-! ### What a command's own rule leaves to the common end (R200, R201) -/

/-- A state of which a command's own rule has rewritten the shared RAM, the protocol variables, the
cards and the event history. -/
def commandUpdate (s : State) (share : Memory) (last : Byte) (r0 r1 : Word)
    (cards : Vector (Option (List Byte)) 4) (draws : Nat) (events : List Event) : State :=
  { s with
    share := share
    lastCommand := last
    result0 := r0
    result1 := r1
    cards := cards
    draws := draws
    events := events }

/-- The common end keeps what the rule has written, and leaves what every command leaves. -/
theorem finish_commandUpdate (s : State) (share : Memory) (last : Byte) (r0 r1 : Word)
    (cards : Vector (Option (List Byte)) 4) (draws : Nat) (events : List Event) (status : Byte)
    (delay : Nat) :
    let t := (commandUpdate s share last r0 r1 cards draws events).finishCommand status delay
    t.result0 = r0 ∧ t.result1 = r1 ∧ t.lastCommand = last ∧ commandEnd status delay s t ∧
      t.cards = cards ∧ t.events = events ∧
      ∀ p, t.shareByte p = { s with share := share }.shareByte p := by
  obtain ⟨encTab, -, -, -, engine, keys, -, run, -⟩ := sameBlock_refl s
  obtain ⟨mailbox, others⟩ := finishCommand_packs_mailbox
    (commandUpdate s share last r0 r1 cards draws events) status delay
  exact ⟨rfl, rfl, rfl, ⟨mailbox, others, rfl, encTab, rfl, engine, keys, run, rfl, rfl⟩, rfl, rfl,
    fun _ => rfl⟩

/-- A rule that leaves the shared RAM alone leaves every byte of it. -/
theorem finish_commandUpdate_quiet (s : State) (last : Byte) (r0 r1 : Word)
    (cards : Vector (Option (List Byte)) 4) (draws : Nat) (events : List Event) (status : Byte)
    (delay : Nat) :
    let t := (commandUpdate s s.share last r0 r1 cards draws events).finishCommand status delay
    t.result0 = r0 ∧ t.result1 = r1 ∧ t.lastCommand = last ∧ commandEnd status delay s t ∧
      sameShare s t ∧ t.cards = cards ∧ t.events = events := by
  obtain ⟨res0, res1, lastCmd, atEnd, slots, history, bytes⟩ :=
    finish_commandUpdate s s.share last r0 r1 cards draws events status delay
  exact ⟨res0, res1, lastCmd, atEnd, bytes, slots, history⟩

/-! ### The commands that touch neither card nor shared RAM (R203, R207, R211 to R221) -/

theorem exec_echo (a : CmdArgs) (s : State) : exec (.echo a) s =
    .next ((commandUpdate s s.share 0xE0#8 (s.reg 0) (s.reg 1) s.cards s.draws
      s.events).finishCommand 0xF7#8 30) := rfl

/-- Settles O36: the common end of a rule that fetches the two input registers. -/
theorem echoReturnsBothInputRegisters : Obligations.EchoReturnsBothInputRegisters :=
  fun s a => ⟨_, exec_echo a s, finish_commandUpdate_quiet s _ _ _ _ _ _ _ _⟩

theorem exec_cident (a : CmdArgs) (s : State) : exec (.cident a) s =
    .next ((commandUpdate s s.share 0xC7#8 0xC7#32 0xF81F0000#32 s.cards s.draws
      s.events).finishCommand 0xF7#8 1) := rfl

/-- Settles O40: the common end of a rule whose second result is the constant. -/
theorem identityIsTheFixedConstant : Obligations.IdentityIsTheFixedConstant :=
  fun s a => ⟨_, exec_cident a s, finish_commandUpdate_quiet s _ _ _ _ _ _ _ _⟩

theorem plainCommand_eq (cmd : Byte) (s : State) : plainCommand cmd s =
    .next ((commandUpdate s s.share cmd (cmd.setWidth 32) s.result1 s.cards s.draws
      s.events).finishCommand 0xF7#8 1) := rfl

/-- Settles O39: the five commands are one rule under five bytes. -/
theorem readyAndStubsOnlyReportTheirByte : Obligations.ReadyAndStubsOnlyReportTheirByte := by
  intro s a i cmd hi
  have plain : exec i s = plainCommand cmd s := by
    rcases hi with ⟨rfl, rfl⟩ | ⟨rfl, rfl⟩ | ⟨rfl, rfl⟩ | ⟨rfl, rfl⟩ | ⟨rfl, rfl⟩ <;> rfl
  obtain ⟨byte, rest⟩ := finish_commandUpdate_quiet s cmd (cmd.setWidth 32) s.result1 s.cards
    s.draws s.events 0xF7#8 1
  refine ⟨_, plain.trans (plainCommand_eq cmd s), ?value, rest⟩
  case value =>
    rw [byte, BitVec.toNat_setWidth]
    omega

theorem exec_unknown (cmd : Byte) (a : CmdArgs) (s : State) : exec (.unknown cmd a) s =
    .next ((commandUpdate s s.share cmd s.result0 s.result1 s.cards s.draws
      (s.events ++ [.unknownCommand (s.reg 0) (s.reg 1)])).finishCommand 0xF4#8 1) := rfl

/-- Settles O44: the common end of a rule that adds one record to the history. -/
theorem unknownCommandReportsAndLogs : Obligations.UnknownCommandReportsAndLogs := by
  intro s cmd a
  obtain ⟨result0, result1, last, atEnd, share, cards, events⟩ := finish_commandUpdate_quiet s cmd
    s.result0 s.result1 s.cards s.draws (s.events ++ [.unknownCommand (s.reg 0) (s.reg 1)]) 0xF4#8 1
  exact ⟨_, exec_unknown cmd a s, result0, result1, last, atEnd, events, share, cards⟩

/-! ### The result fetch (R202) -/

/-- The frame of the protocol: all that is neither a register, a protocol variable nor the event
slot, whatever they become. -/
theorem protocolUpdate_frame (s : State) (regs : Vector Word 8) (last : Byte) (r0 r1 : Word)
    (pending : Option Completion) :
    let t := { s with
      regs := regs, lastCommand := last, result0 := r0, result1 := r1, pendingEvent := pending }
    sameEncTab s t ∧ sameShare s t ∧ t.shareBank = s.shareBank ∧ sameEngine s t ∧ sameKeys s t ∧
      sameOutside s t := by
  obtain ⟨encTab, share, bank, -, engine, keys, -, outside⟩ := sameBlock_refl s
  exact ⟨encTab, share, bank, engine, keys, outside⟩

/-- The mailbox as `GETRES` fills it, before the status is packed (R202). -/
def fillMailbox (s : State) : State :=
  { (((s.beginCommand 0xF6#8).setReg 3 s.result0).setReg 4 s.result1) with lastCommand := 0#8 }

theorem reg_fillMailbox (s : State) (j : Fin 8) : (fillMailbox s).reg j =
    if j = 4 then s.result1 else if j = 3 then s.result0 else s.reg j := by
  have stored : (fillMailbox s).reg j =
      (((s.beginCommand 0xF6#8).setReg 3 s.result0).setReg 4 s.result1).reg j := rfl
  rw [stored, reg_setReg, reg_setReg, reg_beginCommand]

/-- Of the block `GETRES` changes the registers, `lastCommand` and the event slot. -/
theorem finish_fillMailbox (s : State) : ∃ regs, (fillMailbox s).finishCommand 0xF7#8 1 =
    { s with
      regs := regs, lastCommand := 0#8, pendingEvent := some { count := 1, unit := .issue } } := by
  refine ⟨((fillMailbox s).finishCommand 0xF7#8 1).regs, ?_⟩
  simp only [State.finishCommand, State.setStatus, State.setReg, State.arm, fillMailbox,
    State.beginCommand]

theorem exec_getres (a : CmdArgs) (s : State) :
    exec (.getres a) s = .next ((fillMailbox s).finishCommand 0xF7#8 1) := rfl

/-- Settles O35: the mailbox words by `reg_fillMailbox` under the final pack. -/
theorem resultFetchFillsTheMailbox : Obligations.ResultFetchFillsTheMailbox := by
  intro s a
  obtain ⟨mailbox, others⟩ := finishCommand_packs_mailbox (fillMailbox s) 0xF7#8 1
  refine ⟨_, exec_getres a s, ?high, ?low, ?regs, ?rest⟩
  case high =>
    rw [others 4 (by decide), reg_fillMailbox, if_pos rfl]
  case low =>
    rwa [reg_fillMailbox, if_neg (by decide), if_pos rfl] at mailbox
  case regs =>
    intro j hj
    obtain ⟨not3, not4⟩ : j ≠ 3 ∧ j ≠ 4 := by simpa using hj
    rw [others j (by simpa using not3), reg_fillMailbox, if_neg not4, if_neg not3]
  case rest =>
    obtain ⟨regs, update⟩ := finish_fillMailbox s
    rw [update]
    exact ⟨rfl, rfl, rfl, rfl, protocolUpdate_frame s regs _ _ _ _⟩

/-! ### Writes into the opposite bank (R204, R208) -/

/-- The opposite bank is Port B's (43_share_ram.md R172). -/
theorem oppositeIndex_eq_portBIndex (s : State) (o : Nat) :
    oppositeIndex s o = portBIndex s.shareBank o := by
  rcases bank_cases s.shareBank with h | h <;> simp [oppositeIndex, portBIndex, h]

/-- A run of writes puts its byte `o` at the opposite bank's index of `o`. -/
theorem shareByte_opposite (s : State) {vs : List Byte} {o : Nat} {v : Byte} (h : vs[o]? = some v) :
    (s.portBWriteList vs).shareByte (oppositeIndex s o) = v := by
  rw [oppositeIndex_eq_portBIndex]
  exact shareByte_portBWriteList_of_getElem? s h

/-- A cell that is none of a run's targets keeps its byte. -/
theorem shareByte_not_opposite (s : State) {vs : List Byte} {p : Nat}
    (h : ∀ o, o < vs.length → p ≠ oppositeIndex s o) :
    (s.portBWriteList vs).shareByte p = s.shareByte p := by
  rw [shareByte_portBWriteList, if_neg]
  rintro ⟨hlo, hhi⟩
  refine h (p - portBIndex s.shareBank 0) (by omega) ?_
  rw [oppositeIndex_eq_portBIndex,
    portBIndex_eq_base_add s.shareBank (p - portBIndex s.shareBank 0)]
  omega

/-- The bytes of `SHFILL`'s run: 128 equal ones in sub-mode 2, none in any other (R204, R216). -/
def fillBytes (a : CmdArgs) : List Byte :=
  if a.arg2 = 2#8 then List.replicate 128 a.arg3 else []

theorem shfillRam_eq_portBWriteList (a : CmdArgs) (s : State) :
    shfillRam a s = s.portBWriteList (fillBytes a) := by
  rw [shfillRam, fillBytes]
  split <;> rfl

theorem exec_shfill (a : CmdArgs) (s : State) : exec (.shfill a) s =
    .next ((commandUpdate s (s.portBWriteList (fillBytes a)).share 0xE1#8 0xE1#32 0#32 s.cards
      s.draws s.events).finishCommand 0xF7#8 1) := by
  simp only [exec, execShfill, shfillRam_eq_portBWriteList]
  rfl

/-- Settles O37: the filled bytes by where a run of writes lands, the rest by the common end. -/
theorem fillWritesTheWholeOppositeBank : Obligations.FillWritesTheWholeOppositeBank := by
  intro s a
  obtain ⟨result0, result1, last, atEnd, cards, events, bytes⟩ := finish_commandUpdate s
    (s.portBWriteList (fillBytes a)).share 0xE1#8 0xE1#32 0#32 s.cards s.draws s.events 0xF7#8 1
  refine ⟨_, exec_shfill a s, fun fill => ⟨fun o ho => ?filled, fun p hp => ?others⟩,
    fun noFill p => ?kept, result0, result1, last, atEnd, cards, events⟩
  case filled =>
    have byte : (fillBytes a)[o]? = some a.arg3 := by
      rw [fillBytes, if_pos fill, List.getElem?_replicate_of_lt ho]
    exact (bytes _).trans (shareByte_opposite s byte)
  case others =>
    refine (bytes p).trans (shareByte_not_opposite s fun o ho => hp o ?_)
    rwa [fillBytes, if_pos fill, List.length_replicate] at ho
  case kept =>
    refine (bytes p).trans (shareByte_not_opposite s fun o ho => ?_)
    rw [fillBytes, if_neg noFill] at ho
    exact absurd ho (Nat.not_lt_zero o)

/-! ### The copy from a card (R208, R209) -/

theorem cardPresent_iff (s : State) (slot : Fin 4) :
    s.cardPresent slot = true ↔ s.cards[slot] ≠ none := Option.isSome_iff_ne_none

/-- A copy is too long in the model's own terms (R209). -/
theorem copyTooLong_iff (a : CmdArgs) (s : State) :
    copyTooLong a s ↔ s.cardPresent (cardSlot a) = true ∧ ¬copyCount a ≤ 128 := by
  rw [cardPresent_iff, cardSlot_eq_slotOf, Nat.not_le]
  rfl

theorem cardPresent_of_card {a : CmdArgs} {s : State} (card : s.cards[slotOf a] ≠ none) :
    s.cardPresent (cardSlot a) = true := by
  rw [cardSlot_eq_slotOf]
  exact (cardPresent_iff s (slotOf a)).mpr card

theorem cardPresent_of_empty {a : CmdArgs} {s : State} (empty : s.cards[slotOf a] = none) :
    s.cardPresent (cardSlot a) = false := by
  rw [cardSlot_eq_slotOf, State.cardPresent, empty, Option.isSome_none]

/-- With a card, a copy that has a meaning is of at most 128 bytes. -/
theorem copyCount_le_of_short {a : CmdArgs} {s : State} (card : s.cards[slotOf a] ≠ none)
    (short : ¬copyTooLong a s) : copyCount a ≤ 128 :=
  Decidable.of_not_not fun h => short ((copyTooLong_iff a s).mpr ⟨cardPresent_of_card card, h⟩)

theorem exec_cread_card {a : CmdArgs} {s : State} (card : s.cards[slotOf a] ≠ none)
    (short : ¬copyTooLong a s) : exec (.cread a) s =
      .next ((commandUpdate s (s.portBWriteList (creadBytes a s)).share 0xC2#8 0xC2#32 s.result1
        s.cards (s.draws + 1) s.events).finishCommand 0xF7#8 1) := by
  simp only [exec, execCread, if_pos (cardPresent_of_card card),
    if_pos (copyCount_le_of_short card short)]
  rfl

/-- `CREAD` without a card only reports its byte. -/
theorem exec_cread_empty {a : CmdArgs} {s : State} (empty : s.cards[slotOf a] = none) :
    exec (.cread a) s = plainCommand 0xC2#8 s := by
  simp [exec, execCread, cardPresent_of_empty empty]

/-- Byte `i` of `CREAD`'s run is the card's byte at `arg2 + i`, where the card has one. -/
theorem creadBytes_getElem? {a : CmdArgs} {s : State} {bytes : List Byte} {i : Nat} {b : Byte}
    (card : s.cards[slotOf a] = some bytes) (hi : i < a.arg3.toNat)
    (hb : bytes[a.arg2.toNat + i]? = some b) : (creadBytes a s)[i]? = some b := by
  simp [creadBytes, copyCount, hi, cardSlot_eq_slotOf, State.cardRead, card, cardOffset, hb]

theorem length_creadBytes (a : CmdArgs) (s : State) : (creadBytes a s).length = a.arg3.toNat := by
  simp [creadBytes, copyCount]

/-- Settles O41: with a card by where the run lands, without one by the plain report. -/
theorem cardReadFillsTheOppositeBank : Obligations.CardReadFillsTheOppositeBank := by
  intro s a short
  cases card : s.cards[slotOf a] with
  | none =>
    obtain ⟨result0, result1, last, atEnd, share, cards, events⟩ := finish_commandUpdate_quiet s
      0xC2#8 0xC2#32 s.result1 s.cards s.draws s.events 0xF7#8 1
    exact ⟨_, (exec_cread_empty card).trans (plainCommand_eq 0xC2#8 s), nofun, fun _ => share,
      result0, result1, last, atEnd, cards, events⟩
  | some bytes =>
    obtain ⟨result0, result1, last, atEnd, cards, events, share⟩ := finish_commandUpdate s
      (s.portBWriteList (creadBytes a s)).share 0xC2#8 0xC2#32 s.result1 s.cards (s.draws + 1)
      s.events 0xF7#8 1
    refine ⟨_, exec_cread_card (by simp [card]) short, ?copied, nofun, result0, result1, last,
      atEnd, cards, events⟩
    rintro _ ⟨⟩
    refine ⟨fun i b hi hb => ?inside, fun p hp => ?others⟩
    case inside =>
      exact (share _).trans (shareByte_opposite s (creadBytes_getElem? card hi hb))
    case others =>
      refine (share p).trans (shareByte_not_opposite s fun i hi => hp i ?_)
      rwa [length_creadBytes] at hi

end Sys2Proof.Machine

/-! PROOFS. The writes into a card (44_mcu_protocol.md R210, R212; 45_dispatcher_rtc_card.md
section 4): what a run of card writes does to its card and leaves of the others. -/

namespace Sys2Proof.Machine

open Sys2Proof.Claims

/-! ### A run of card writes (R248) -/

theorem cards_set_same (cards : Vector (Option (List Byte)) 4) (slot : Fin 4)
    (c : Option (List Byte)) : (cards.set slot c)[slot] = c := by simp

theorem cards_set_other (cards : Vector (Option (List Byte)) 4) {slot slot' : Fin 4}
    (c : Option (List Byte)) (h : slot' ≠ slot) : (cards.set slot c)[slot'] = cards[slot'] := by
  have hne : slot.val ≠ slot'.val := fun e => h (Fin.ext e.symm)
  simp [hne]

/-- Bytes `vs` laid over `old` from offset `off`: where they fit they stand there, and every other
byte is the old one. -/
def Overlays (off : Nat) (vs old new : List Byte) : Prop :=
  new.length = old.length ∧ (off + vs.length ≤ old.length →
    (∀ i v, vs[i]? = some v → new[off + i]? = some v) ∧
    ∀ j, (j < off ∨ off + vs.length ≤ j) → new[j]? = old[j]?)

theorem overlays_nil (off : Nat) (old : List Byte) : Overlays off [] old old :=
  ⟨rfl, fun _ => ⟨by simp, fun _ _ => rfl⟩⟩

/-- One byte laid over, then the rest from the next offset on. -/
theorem overlays_cons {off : Nat} {v : Byte} {vs old mid new : List Byte}
    (hlen : mid.length = old.length) (hmid : off < old.length → mid = old.set off v)
    (hnew : Overlays (off + 1) vs mid new) : Overlays off (v :: vs) old new := by
  obtain ⟨hnewlen, hrest⟩ := hnew
  refine ⟨hnewlen.trans hlen, fun hfit => ?_⟩
  rw [List.length_cons] at hfit
  obtain ⟨hin, hout⟩ := hrest (by omega)
  have hfirst : off < old.length := by omega
  rw [hmid hfirst] at hout
  refine ⟨fun i w hi => ?inside, fun j hj => ?outside⟩
  case inside =>
    cases i with
    | zero =>
      rw [List.getElem?_cons_zero] at hi
      rw [Nat.add_zero, hout off (.inl (by omega)), List.getElem?_set_self hfirst, hi]
    | succ i =>
      rw [List.getElem?_cons_succ] at hi
      rw [← hin i w hi]
      congr 1
      omega
  case outside =>
    rw [List.length_cons] at hj
    rw [hout j (by omega), List.getElem?_set_ne (by omega)]

/-- A run of card writes lays its bytes over the card. -/
theorem cardWriteList_overlays (vs : List Byte) {s : State} {slot : Fin 4} (off : Nat)
    {bytes : List Byte} (card : s.cards[slot] = some bytes) :
    ∃ bytes', (s.cardWriteList slot off vs).cards[slot] = some bytes' ∧
      Overlays off vs bytes bytes' := by
  induction vs generalizing s off bytes with
  | nil => exact ⟨bytes, card, overlays_nil off bytes⟩
  | cons v vs ih =>
    rcases cardWrite_cases s slot off v with ⟨empty, -⟩ | ⟨old, mid, hold, hlen, hset, d, hw⟩
    · exact nomatch empty.symm.trans card
    · cases hold.symm.trans card
      have written : (s.cardWrite slot off v).cards[slot] = some mid := by
        rw [hw]
        exact cards_set_same s.cards slot (some mid)
      obtain ⟨new, hnew, laid⟩ := ih (off + 1) written
      exact ⟨new, hnew, overlays_cons hlen hset laid⟩

/-- A run of card writes leaves the other slots. -/
theorem cardWriteList_other (vs : List Byte) (s : State) {slot slot' : Fin 4} (off : Nat)
    (h : slot' ≠ slot) : (s.cardWriteList slot off vs).cards[slot'] = s.cards[slot'] := by
  induction vs generalizing s off with
  | nil => rfl
  | cons v vs ih =>
    refine (ih (s.cardWrite slot off v) (off + 1)).trans ?_
    rcases cardWrite_cases s slot off v with ⟨-, hw⟩ | ⟨_, mid, -, -, -, d, hw⟩
    · rw [hw]
    · rw [hw]
      exact cards_set_other s.cards (some mid) h

/-- A run of card writes does nothing on an empty slot. -/
theorem cardWriteList_empty (vs : List Byte) {s : State} {slot : Fin 4} (off : Nat)
    (empty : s.cards[slot] = none) : s.cardWriteList slot off vs = s := by
  induction vs generalizing off with
  | nil => rfl
  | cons v vs ih =>
    rcases cardWrite_cases s slot off v with ⟨-, hw⟩ | ⟨bytes, _, card, -⟩
    · rw [State.cardWriteList, hw, ih]
    · exact nomatch empty.symm.trans card

/-- What a run of card writes leaves of the slots it is not for. -/
theorem cardWriteList_kept (vs : List Byte) (s : State) {slot slot' : Fin 4} (off : Nat)
    (h : slot' ≠ slot ∨ s.cards[slot] = none) :
    (s.cardWriteList slot off vs).cards[slot'] = s.cards[slot'] := by
  rcases h with hne | empty
  · exact cardWriteList_other vs s off hne
  · rw [cardWriteList_empty vs off empty]

/-! ### The two commands that write a card -/

/-- A command that only writes a card: a run of card writes, then the common end. -/
theorem finish_cardWriteList (s : State) (cmd : Byte) (slot : Fin 4) (off : Nat) (vs : List Byte) :
    ∃ draws, ((((s.beginCommand cmd).cardWriteList slot off vs).resultIsCommand
        cmd).finishCommand 0xF7#8 1) =
      (commandUpdate s s.share cmd (cmd.setWidth 32) s.result1
        ((s.beginCommand cmd).cardWriteList slot off vs).cards draws s.events).finishCommand
        0xF7#8 1 := by
  obtain ⟨cards, draws, hw⟩ := cardWriteList_frame vs (s.beginCommand cmd) slot off
  exact ⟨draws, by rw [hw]; rfl⟩

theorem exec_cwrite_card {a : CmdArgs} {s : State} (card : s.cards[slotOf a] ≠ none)
    (short : ¬copyTooLong a s) : exec (.cwrite a) s =
      .next ((((s.beginCommand 0xC3#8).cardWriteList (slotOf a) a.arg2.toNat
        (cwriteBytes a s)).resultIsCommand 0xC3#8).finishCommand 0xF7#8 1) := by
  simp only [exec, execCwrite, if_pos (cardPresent_of_card card),
    if_pos (copyCount_le_of_short card short)]
  rw [cardSlot_eq_slotOf]
  rfl

/-- `CWRITE` without a card only reports its byte. -/
theorem exec_cwrite_empty {a : CmdArgs} {s : State} (empty : s.cards[slotOf a] = none) :
    exec (.cwrite a) s = plainCommand 0xC3#8 s := by
  simp [exec, execCwrite, cardPresent_of_empty empty]

/-- An empty slot skips the run of card writes, so that `CWRITE` is one rule for both cases. -/
theorem exec_cwrite {a : CmdArgs} {s : State} (short : ¬copyTooLong a s) : exec (.cwrite a) s =
    .next ((((s.beginCommand 0xC3#8).cardWriteList (slotOf a) a.arg2.toNat
      (cwriteBytes a s)).resultIsCommand 0xC3#8).finishCommand 0xF7#8 1) := by
  by_cases card : s.cards[slotOf a] = none
  case pos =>
    have skipped : (s.beginCommand 0xC3#8).cardWriteList (slotOf a) a.arg2.toNat (cwriteBytes a s) =
        s.beginCommand 0xC3#8 := cardWriteList_empty _ _ card
    rw [exec_cwrite_empty card, skipped]
    rfl
  case neg => exact exec_cwrite_card card short

theorem exec_cwrbyte (a : CmdArgs) (s : State) : exec (.cwrbyte a) s =
    .next ((((s.beginCommand 0xC8#8).cardWriteList (slotOf a) a.arg2.toNat
      [a.arg3]).resultIsCommand 0xC8#8).finishCommand 0xF7#8 1) := by
  rw [← cardSlot_eq_slotOf]
  rfl

/-- Byte `i` of `CWRITE`'s run is the opposite bank's byte `i`. -/
theorem cwriteBytes_getElem? {a : CmdArgs} {s : State} {i : Nat} (hi : i < a.arg3.toNat) :
    (cwriteBytes a s)[i]? = some (s.shareByte (oppositeIndex s i)) := by
  simp [cwriteBytes, copyCount, hi, State.portBRead, oppositeIndex_eq_portBIndex]

theorem length_cwriteBytes (a : CmdArgs) (s : State) : (cwriteBytes a s).length = a.arg3.toNat := by
  simp [cwriteBytes, copyCount]

/-- Settles O42: the card by how the run lays its bytes over it, the rest by the common end. -/
theorem cardWriteCopiesTheOppositeBank : Obligations.CardWriteCopiesTheOppositeBank := by
  intro s a short
  obtain ⟨draws, update⟩ := finish_cardWriteList s 0xC3#8 (slotOf a) a.arg2.toNat (cwriteBytes a s)
  obtain ⟨result0, result1, last, atEnd, share, cards, events⟩ := finish_commandUpdate_quiet s
    0xC3#8 0xC3#32 s.result1 _ draws s.events 0xF7#8 1
  refine ⟨_, (exec_cwrite short).trans (congrArg _ update), fun bytes card => ?written,
    fun slot hslot => ?kept, share, result0, result1, last, atEnd, events⟩
  case written =>
    obtain ⟨bytes', hbytes', hlen, laid⟩ := cardWriteList_overlays (cwriteBytes a s)
      (s := s.beginCommand 0xC3#8) a.arg2.toNat card
    rw [length_cwriteBytes] at laid
    exact ⟨bytes', hbytes', hlen, fun hfit =>
      ⟨fun i hi => (laid hfit).1 i _ (cwriteBytes_getElem? hi), (laid hfit).2⟩⟩
  case kept => exact cardWriteList_kept _ (s.beginCommand 0xC3#8) _ hslot

/-- Settles O43: a run of one byte. -/
theorem cardByteWriteStoresOneByte : Obligations.CardByteWriteStoresOneByte := by
  intro s a
  obtain ⟨draws, update⟩ := finish_cardWriteList s 0xC8#8 (slotOf a) a.arg2.toNat [a.arg3]
  obtain ⟨result0, result1, last, atEnd, share, cards, events⟩ := finish_commandUpdate_quiet s
    0xC8#8 0xC8#32 s.result1 _ draws s.events 0xF7#8 1
  refine ⟨_, (exec_cwrbyte a s).trans (congrArg _ update), fun bytes card => ?written,
    fun slot hslot => ?kept, share, result0, result1, last, atEnd, events⟩
  case written =>
    obtain ⟨bytes', hbytes', hlen, laid⟩ := cardWriteList_overlays [a.arg3]
      (s := s.beginCommand 0xC8#8) a.arg2.toNat card
    refine ⟨bytes', hbytes', hlen, fun hfit => ?_⟩
    obtain ⟨stored, others⟩ := laid hfit
    exact ⟨stored 0 a.arg3 rfl, fun j hj => others j (by rw [List.length_singleton]; omega)⟩
  case kept => exact cardWriteList_kept _ (s.beginCommand 0xC8#8) _ hslot

end Sys2Proof.Machine

/-! PROOFS. The strobes (44_mcu_protocol.md sections 2 and 4): which command an issue runs, what
every command reports, the acknowledge, and that none of them reaches the host's bank. -/

namespace Sys2Proof.Machine

open Sys2Proof.Claims

/-! ### Which command an issue runs (R200) -/

/-- A nonzero issue stores the strobe and runs the word in `REG[0]`, which the strobe does not
touch. -/
theorem exec_issue {v : Word} (s : State) (hv : v ≠ 0#32) :
    exec (.mcuIssue v) s = exec (decodeCommand (s.reg 0)) (s.setReg 2 v) := by
  have untouched : (s.setReg 2 v).reg 0 = s.reg 0 := reg_setReg_other s v (by decide)
  simp only [exec, execMcuIssue, if_neg hv]
  rw [runCommand_eq_exec, untouched]
  rfl

/-- Settles O10: by `exec_issue`. -/
theorem issueRunsTheCommandInRegister0 : Obligations.IssueRunsTheCommandInRegister0 := by
  rintro s v _ hv ⟨⟩
  exact exec_issue s hv

/-! ### What every command reports (R200, R201) -/

/-- The status that a command byte reports (R201, R206, R214). -/
def commandStatus (c : Byte) (a : CmdArgs) (s : State) : Byte :=
  if listedCommands.contains c = true ∧ ¬(c = 0xC0#8 ∧ s.cards[slotOf a] = none) then 0xF7#8
  else 0xF4#8

/-- What the command of byte `c` leaves of the protocol and of the rest, `GETRES` included. -/
def commandReport (c : Byte) (a : CmdArgs) (s t : State) : Prop :=
  t.lastCommand = (if c = 0xF6#8 then 0#8 else c) ∧
    (t.reg 3).extractLsb' 16 8 = commandStatus c a s ∧
    t.pendingEvent = some { count := if c = 0xE0#8 then 30 else 1, unit := .issue } ∧
    sameRegsBut [3, 4] s t ∧ (c ≠ 0xF6#8 → t.reg 4 = s.reg 4) ∧ sameEncTab s t ∧
    t.shareBank = s.shareBank ∧ sameEngine s t ∧ sameKeys s t ∧ sameRun s t

theorem commandStatus_of_listed {c : Byte} (listed : c ∈ listedCommands) (notCheck : c ≠ 0xC0#8)
    (a : CmdArgs) (s : State) : commandStatus c a s = 0xF7#8 :=
  if_pos ⟨List.contains_iff_mem.mpr listed, fun h => notCheck h.1⟩

theorem commandStatus_of_unlisted {c : Byte} (unlisted : c ∉ listedCommands) (a : CmdArgs)
    (s : State) : commandStatus c a s = 0xF4#8 :=
  if_neg fun h => unlisted (List.contains_iff_mem.mp h.1)

theorem commandStatus_check (a : CmdArgs) (s : State) : commandStatus 0xC0#8 a s =
    if s.cards[slotOf a] = none then 0xF4#8 else 0xF7#8 := by
  by_cases empty : s.cards[slotOf a] = none
  case pos => rw [commandStatus, if_neg fun h => h.2 ⟨rfl, empty⟩, if_pos empty]
  case neg => rw [commandStatus, if_pos ⟨rfl, fun h => empty h.2⟩, if_neg empty]

/-- The common end under a command's status and delay, `GETRES` aside. -/
def endsAsCommand (c : Byte) (a : CmdArgs) (s t : State) : Prop :=
  t.lastCommand = c ∧ commandEnd (commandStatus c a s) (if c = 0xE0#8 then 30 else 1) s t

/-- The common end is what a report asks for. -/
theorem commandReport_of_end {c : Byte} {a : CmdArgs} {s t : State} (notFetch : c ≠ 0xF6#8)
    (h : endsAsCommand c a s t) : commandReport c a s t := by
  obtain ⟨last, ⟨mailbox, -⟩, others, pending, encTab, bank, engine, keys, run, -⟩ := h
  refine ⟨last.trans (if_neg notFetch).symm, mailbox, pending, fun j hj => others j ?_,
    fun _ => others 4 (by decide), encTab, bank, engine, keys, run⟩
  rw [List.mem_singleton]
  rintro rfl
  simp at hj

/-- An accepted command of one delay unit ends so. -/
theorem endsAsCommand_of_accepted {c : Byte} {a : CmdArgs} {s t : State}
    (listed : c ∈ listedCommands) (notCheck : c ≠ 0xC0#8) (notEcho : c ≠ 0xE0#8)
    (last : t.lastCommand = c) (atEnd : commandEnd 0xF7#8 1 s t) : endsAsCommand c a s t := by
  refine ⟨last, ?_⟩
  rwa [commandStatus_of_listed listed notCheck, if_neg notEcho]

/-- `CREADY` and the stubs end so. -/
theorem readyOrStub_ends {c : Byte} {i : Instr} (a : CmdArgs) (s : State)
    (hi : (i = .cready a ∧ c = 0xC1#8) ∨ (i = .cstub4 a ∧ c = 0xC4#8) ∨
      (i = .cstub5 a ∧ c = 0xC5#8) ∨ (i = .cstub6 a ∧ c = 0xC6#8) ∨
      (i = .cstub9 a ∧ c = 0xC9#8)) :
    ∃ t, exec i s = .next t ∧ endsAsCommand c a s t := by
  obtain ⟨t, ht, -, -, last, atEnd, -⟩ := readyAndStubsOnlyReportTheirByte s a i c hi
  have byte : c ∈ listedCommands ∧ c ≠ 0xC0#8 ∧ c ≠ 0xE0#8 := by
    rcases hi with ⟨-, rfl⟩ | ⟨-, rfl⟩ | ⟨-, rfl⟩ | ⟨-, rfl⟩ | ⟨-, rfl⟩ <;> decide
  exact ⟨t, ht, endsAsCommand_of_accepted byte.1 byte.2.1 byte.2.2 last atEnd⟩

/-- A command other than `GETRES` that the spec gives a meaning runs to the common end: each by its
own statement. -/
theorem command_ends {c : Byte} (a : CmdArgs) (s : State) (notFetch : c ≠ 0xF6#8)
    (short : c = 0xC2#8 ∨ c = 0xC3#8 → ¬copyTooLong a s) :
    ∃ t, exec ((cmdOp c).toInstr a) s = .next t ∧ endsAsCommand c a s t := by
  by_cases listed : c ∈ listedCommands
  case neg =>
    obtain ⟨t, ht, -, -, last, atEnd, -⟩ := unknownCommandReportsAndLogs s c a
    have notEcho : c ≠ 0xE0#8 := by
      rintro rfl
      exact listed (by decide)
    rw [cmdOp_of_not_listed listed]
    refine ⟨t, ht, last, ?_⟩
    rwa [commandStatus_of_unlisted listed, if_neg notEcho]
  case pos =>
    rcases (mem_listedCommands c).mp listed with rfl | rfl | rfl | rfl | rfl | rfl | rfl | rfl |
      rfl | rfl | rfl | rfl | rfl
    · exact absurd rfl notFetch
    · obtain ⟨t, ht, -, -, last, atEnd, -⟩ := echoReturnsBothInputRegisters s a
      exact ⟨t, ht, last, by rwa [commandStatus_of_listed listed (by decide)]⟩
    · obtain ⟨t, ht, -, -, -, -, last, atEnd, -⟩ := fillWritesTheWholeOppositeBank s a
      exact ⟨t, ht, endsAsCommand_of_accepted listed (by decide) (by decide) last atEnd⟩
    · obtain ⟨t, ht, -, -, last, atEnd, -⟩ := cardCheckReportsPresence s a
      exact ⟨t, ht, last, by rwa [commandStatus_check]⟩
    · exact readyOrStub_ends a s (.inl ⟨rfl, rfl⟩)
    · obtain ⟨t, ht, -, -, -, -, last, atEnd, -⟩ :=
        cardReadFillsTheOppositeBank s a (short (.inl rfl))
      exact ⟨t, ht, endsAsCommand_of_accepted listed (by decide) (by decide) last atEnd⟩
    · obtain ⟨t, ht, -, -, -, -, -, last, atEnd, -⟩ :=
        cardWriteCopiesTheOppositeBank s a (short (.inr rfl))
      exact ⟨t, ht, endsAsCommand_of_accepted listed (by decide) (by decide) last atEnd⟩
    · exact readyOrStub_ends a s (.inr (.inl ⟨rfl, rfl⟩))
    · exact readyOrStub_ends a s (.inr (.inr (.inl ⟨rfl, rfl⟩)))
    · exact readyOrStub_ends a s (.inr (.inr (.inr (.inl ⟨rfl, rfl⟩))))
    · obtain ⟨t, ht, -, -, last, atEnd, -⟩ := identityIsTheFixedConstant s a
      exact ⟨t, ht, endsAsCommand_of_accepted listed (by decide) (by decide) last atEnd⟩
    · obtain ⟨t, ht, -, -, -, -, -, last, atEnd, -⟩ := cardByteWriteStoresOneByte s a
      exact ⟨t, ht, endsAsCommand_of_accepted listed (by decide) (by decide) last atEnd⟩
    · exact readyOrStub_ends a s (.inr (.inr (.inr (.inr ⟨rfl, rfl⟩))))

/-- A command that the spec gives a meaning runs, and reports. -/
theorem command_reports (c : Byte) (a : CmdArgs) (s : State)
    (short : c = 0xC2#8 ∨ c = 0xC3#8 → ¬copyTooLong a s) :
    ∃ t, exec ((cmdOp c).toInstr a) s = .next t ∧ commandReport c a s t := by
  by_cases fetch : c = 0xF6#8
  case pos =>
    subst fetch
    obtain ⟨t, ht, -, ⟨mailbox, -⟩, regs, last, -, -, pending, encTab, -, bank, engine, keys, run,
      -⟩ := resultFetchFillsTheMailbox s a
    exact ⟨t, ht, last, mailbox.trans (commandStatus_of_listed (by decide) (by decide) a s).symm,
      pending, regs, fun h => absurd rfl h, encTab, bank, engine, keys, run⟩
  case neg =>
    obtain ⟨t, ht, atEnd⟩ := command_ends a s fetch short
    exact ⟨t, ht, commandReport_of_end fetch atEnd⟩

/-- Settles O33: zero is a register write; any other value is what the command reports, on the state
with the strobe stored. -/
theorem issueStoresRunsPacksAndArms : Obligations.IssueStoresRunsPacksAndArms := by
  refine ⟨fun s => ?zero, fun s v hv short => ?nonzero⟩
  case zero =>
    obtain ⟨others, encTab, share, bank, engine, keys, protocol, outside, -⟩ :=
      setReg_frame s 2 0#32
    exact ⟨_, rfl, reg_setReg_same s 2 0#32, others, encTab, share, bank, engine, keys, protocol,
      outside⟩
  case nonzero =>
    have others : ∀ j, j ≠ 2 → (s.setReg 2 v).reg j = s.reg j := fun _ hj => reg_setReg_other s v hj
    obtain ⟨t, ht, last, status, pending, regs, high, encTab, bank, engine, keys, run⟩ :=
      command_reports (commandByte s) (commandArgs s) (s.setReg 2 v) fun h => not_and.mp short h
    refine ⟨t, (exec_issue s hv).trans ht, ?strobe, last, status, pending, ?regs, ?high, encTab,
      bank, engine, keys, run⟩
    case strobe => exact (regs 2 (by decide)).trans (reg_setReg_same s 2 v)
    case regs =>
      intro j hj
      rw [List.mem_cons, not_or] at hj
      exact (regs j hj.2).trans (others j hj.1)
    case high => exact fun h => (high h).trans (others 4 (by decide))

/-! ### The acknowledge (R218) -/

/-- An effective acknowledge. -/
theorem exec_ack {v : Word} {s : State} (hv : v ≠ 0#32) (outstanding : s.lastCommand ≠ 0#8) :
    exec (.mcuAck v) s = .next
      { (((s.setReg 5 v).setStatus Config.cfg.statusDone).arm 100 .ack) with
        lastCommand := 0#8 } := by
  simp only [exec, execMcuAck, if_neg (not_or.mpr ⟨hv, outstanding⟩)]
  rfl

/-- An acknowledge of nothing stores the strobe. -/
theorem exec_ack_ignored {v : Word} {s : State} (ignored : v = 0#32 ∨ s.lastCommand = 0#8) :
    exec (.mcuAck v) s = .next (s.setReg 5 v) := by
  simp only [exec, execMcuAck, if_pos ignored]

/-- The registers after an effective acknowledge. -/
theorem reg_ack (s : State) (v : Word) (status : Byte) (j : Fin 8) :
    ((s.setReg 5 v).setStatus status).reg j =
      if j = 3 then packStatus (s.reg 3) status else if j = 5 then v else s.reg j := by
  have kept : (s.setReg 5 v).reg 3 = s.reg 3 := reg_setReg_other s v (by decide)
  rw [reg_setStatus, kept, reg_setReg]

/-- Of the block an effective acknowledge changes the registers, `lastCommand` and the event
slot. -/
theorem acknowledge_update (s : State) (v : Word) (status : Byte) : ∃ regs,
    { (((s.setReg 5 v).setStatus status).arm 100 .ack) with lastCommand := 0#8 } =
    { s with
      regs := regs, lastCommand := 0#8, pendingEvent := some { count := 100, unit := .ack } } :=
  ⟨((s.setReg 5 v).setStatus status).regs, by
    simp only [State.setStatus, State.setReg, State.arm]⟩

/-- Settles O34: the registers by `reg_ack`, the rest by the frame of the protocol. -/
theorem acknowledgeClosesTheCommand : Obligations.AcknowledgeClosesTheCommand := by
  refine ⟨fun s v hv outstanding => ?closes, fun s v ignored => ?ignored⟩
  case closes =>
    have regs := reg_ack s v Config.cfg.statusDone
    refine ⟨_, exec_ack hv outstanding, ?strobe, ?mailbox, ?others, ?rest⟩
    case strobe => exact regs 5
    case mailbox =>
      have := packed_packStatus (s.reg 3) Config.cfg.statusDone
      rwa [← (regs 3).trans (if_pos rfl)] at this
    case others =>
      intro j hj
      obtain ⟨not3, not5⟩ : j ≠ 3 ∧ j ≠ 5 := by simpa using hj
      exact (regs j).trans (by rw [if_neg not3, if_neg not5])
    case rest =>
      obtain ⟨regs, update⟩ := acknowledge_update s v Config.cfg.statusDone
      rw [update]
      obtain ⟨encTab, share, bank, engine, keys, outside⟩ := protocolUpdate_frame s regs 0#8
        s.result0 s.result1 (some { count := 100, unit := .ack })
      exact ⟨rfl, rfl, rfl, rfl, encTab, share, bank, engine, keys, outside⟩
  case ignored =>
    obtain ⟨others, encTab, share, bank, engine, keys, protocol, outside, -⟩ := setReg_frame s 5 v
    exact ⟨_, exec_ack_ignored ignored, reg_setReg_same s 5 v, others, encTab, share, bank, engine,
      keys, protocol, outside⟩

/-! ### The host's bank (43_share_ram.md R172, R176) -/

/-- A command writes through Port B only, so that Port A reads as before. -/
theorem portARead_of_commandFrame {s t : State} (h : CommandFrame s t) :
    t.shareBank = s.shareBank ∧ ∀ o, o < 128 → t.portARead o = s.portARead o := by
  obtain ⟨vs, hvs, _, -, _, -, ht⟩ := h
  rw [ht]
  refine ⟨rfl, fun o ho => ?_⟩
  have bytes : (s.portBWriteList vs).shareByte (portAIndex s.shareBank o) = s.portARead o :=
    shareByte_not_opposite s fun o' ho' => by
      rw [oppositeIndex_eq_portBIndex]
      exact portAIndex_ne_portBIndex s.shareBank ho (by omega)
  exact bytes

/-- Settles O19: by the frame of commands, and what a strobe stores is no byte of the shared RAM. -/
theorem commandsNeverTouchTheHostsBank : Obligations.CommandsNeverTouchTheHostsBank := by
  rintro i s t (hi | ⟨v, rfl⟩ | ⟨v, rfl⟩) h
  case inl => exact portARead_of_commandFrame (exec_command_frame hi h)
  case inr.inl =>
    by_cases hv : v = 0#32
    case pos =>
      subst hv
      cases h
      exact ⟨rfl, fun _ _ => rfl⟩
    case neg => exact portARead_of_commandFrame (exec_issue_frame hv h)
  case inr.inr =>
    simp only [exec, execMcuAck] at h
    split at h <;> cases h <;> exact ⟨rfl, fun _ _ => rfl⟩

end Sys2Proof.Machine

/-! PROOFS. The Bit-Transform Library over words and buffers (40_bit_transforms.md): the laws of the
permutations, the positional mask, and what each transform does to its buffer. -/

namespace Sys2Proof.Machine

open Sys2Proof.Claims

/-! ### The permutation of a word (R111, R112) -/

/-- Two words that agree on their sixteen bits are equal. -/
theorem half_ext {a b : Half} (h : ∀ p : Fin 16, a.getLsbD p.val = b.getLsbD p.val) : a = b :=
  BitVec.eq_of_getLsbD_eq fun i hi => h ⟨i, hi⟩

/-- Result bit `p` is source bit `P p`. -/
theorem getLsbD_permute16 (P : Perm16) (w : Half) (p : Fin 16) :
    (permute16 P w).getLsbD p.val = w.getLsbD (P p).val := by
  rw [permute16, BitVec.getLsbD_ofFnLE, dif_pos p.isLt]

theorem permute16_xor (P : Perm16) (a b : Half) :
    permute16 P (a ^^^ b) = permute16 P a ^^^ permute16 P b :=
  half_ext fun p => by simp only [getLsbD_permute16, BitVec.getLsbD_xor]

/-- The inverse table undoes the permutation. -/
theorem permute16_symm_permute16 (P : Perm16) (a : Half) :
    permute16 P.symm (permute16 P a) = a :=
  half_ext fun p => by rw [getLsbD_permute16, getLsbD_permute16, Equiv.apply_symm_apply]

theorem permute16_injective (P : Perm16) : Function.Injective (permute16 P) :=
  Function.LeftInverse.injective (permute16_symm_permute16 P)

theorem permute16_zeros (P : Perm16) : permute16 P 0x0000#16 = 0x0000#16 :=
  half_ext fun p => by rw [getLsbD_permute16, BitVec.getLsbD_zero, BitVec.getLsbD_zero]

theorem permute16_ones (P : Perm16) : permute16 P 0xFFFF#16 = 0xFFFF#16 := by
  have ones : ∀ p : Fin 16, (0xFFFF#16).getLsbD p.val = true := by decide
  exact half_ext fun p => by rw [getLsbD_permute16, ones, ones]

/-- The set bits are the same ones in other places. -/
theorem sum_bits_permute16 (P : Perm16) (a : Half) :
    (∑ p : Fin 16, ((permute16 P a).getLsbD p.val).toNat) =
      ∑ p : Fin 16, (a.getLsbD p.val).toNat := by
  simp only [getLsbD_permute16]
  exact Equiv.sum_comp P fun q => (a.getLsbD q.val).toNat

/-- Settles O52: every law from what one result bit is. -/
theorem permutationKeepsBitsAndXor : Obligations.PermutationKeepsBitsAndXor := fun P a b =>
  ⟨getLsbD_permute16 P a, permute16_xor P a b, permute16_zeros P, permute16_ones P,
    permute16_symm_permute16 P a, fun h => permute16_injective P h, sum_bits_permute16 P a⟩

/-! ### The mirror of a word (R118, R119) -/

theorem reverse32_reverse32 (v : Word) : reverse32 (reverse32 v) = v := by
  apply BitVec.eq_of_getLsbD_eq
  intro i hi
  have mirrored : 31 - i < 32 := by omega
  have twice : 31 - (31 - i) = i := by omega
  rw [getLsbD_reverse32, getLsbD_reverse32, decide_eq_true hi, decide_eq_true mirrored, twice,
    Bool.true_and, Bool.true_and]

theorem reverse32_xor (v w : Word) : reverse32 (v ^^^ w) = reverse32 v ^^^ reverse32 w := by
  apply BitVec.eq_of_getLsbD_eq
  intro i hi
  simp only [getLsbD_reverse32, BitVec.getLsbD_xor, decide_eq_true hi, Bool.true_and]

/-- Settles O54: the laws from the bits, the listed constants by computing them. -/
theorem reverse32IsAnInvolution : Obligations.Reverse32IsAnInvolution := by
  refine ⟨reverse32_reverse32, fun v w h => ?injective, reverse32_xor, ?constants⟩
  case injective => exact Function.LeftInverse.injective reverse32_reverse32 h
  case constants => decide +kernel

/-! ### The positional mask (R114) -/

theorem toNat_xor_add (a b : Bool) (n : Nat) :
    ((a ^^ b).toNat + n) % 2 = (a.toNat + (b.toNat + n)) % 2 := by
  cases a <;> cases b
  case true.true => simp only [Bool.xor_self, Bool.toNat_false, Bool.toNat_true]; omega
  all_goals simp

/-- A bit of an exclusive or over a list is the parity of the chosen words that have it. -/
theorem getLsbD_foldl_xor (chosen : Fin 11 → Bool) (x : Fin 11 → Half) (l : List (Fin 11))
    (m : Half) (q : Nat) :
    ((l.foldl (fun m b => if chosen b then m ^^^ x b else m) m).getLsbD q).toNat =
      ((m.getLsbD q).toNat + (l.map fun b => (chosen b && (x b).getLsbD q).toNat).sum) % 2 := by
  induction l generalizing m with
  | nil => cases hm : m.getLsbD q <;> simp [hm]
  | cons b l ih =>
    rw [List.foldl_cons, ih, List.map_cons, List.sum_cons]
    cases chosen b with
    | false => simp
    | true => rw [if_pos rfl, BitVec.getLsbD_xor, toNat_xor_add, Bool.true_and]

/-- Bit `q` of the mask, with the shift as a division. -/
theorem getLsbD_posmask (c : DecoderCfg) (i q : Nat) : ((posmask c i).getLsbD q).toNat =
    (∑ b : Fin 11, ((i / 2 ^ c.shift).testBit b.val && (c.xtab b).getLsbD q).toNat) % 2 := by
  rw [posmask, getLsbD_foldl_xor, Fin.sum_univ_def, Nat.shiftRight_eq_div_pow, BitVec.getLsbD_zero,
    Bool.toNat_false, Nat.zero_add]

/-- The mask depends on eleven bits of the index only. -/
theorem posmask_congr {c : DecoderCfg} {i j : Nat}
    (h : ∀ b < 11, i.testBit (c.shift + b) = j.testBit (c.shift + b)) :
    posmask c i = posmask c j := by
  have bits : ∀ b : Fin 11, (i >>> c.shift).testBit b.val = (j >>> c.shift).testBit b.val :=
    fun b => by rw [Nat.testBit_shiftRight, Nat.testBit_shiftRight, h b.val b.isLt]
  simp only [posmask, bits]

theorem posmask_zero (c : DecoderCfg) : posmask c 0 = 0#16 := by simp [posmask]

/-- Settles O55: the parity by `getLsbD_posmask`, the rest by which bits of the index count. -/
theorem positionMaskRepeats : Obligations.PositionMaskRepeats := by
  refine fun c i => ⟨fun q _ => getLsbD_posmask c i q, ?period, fun hzero => ?zero,
    fun hshift => ?pair⟩
  case period =>
    refine posmask_congr fun b hb => ?_
    have inPeriod : c.shift + b < 11 + c.shift := by omega
    rw [Nat.testBit_mod_two_pow, decide_eq_true inPeriod, Bool.true_and]
  case zero =>
    rw [← posmask_zero c]
    refine posmask_congr fun b hb => ?_
    calc i.testBit (c.shift + b)
        = (i / 2 ^ c.shift).testBit b := by
          rw [← Nat.shiftRight_eq_div_pow, Nat.testBit_shiftRight]
      _ = ((i / 2 ^ c.shift) % 2 ^ 11).testBit b := by
          rw [Nat.testBit_mod_two_pow, decide_eq_true hb, Bool.true_and]
      _ = Nat.testBit 0 (c.shift + b) := by rw [hzero, Nat.zero_testBit, Nat.zero_testBit]
  case pair =>
    refine posmask_congr fun b _ => ?_
    obtain ⟨k, hk⟩ : ∃ k, c.shift + b = k + 1 := ⟨c.shift + b - 1, by omega⟩
    have sameHalf : 2 * i / 2 = (2 * i + 1) / 2 := by omega
    rw [hk, Nat.testBit_succ, Nat.testBit_succ, sameHalf]

/-! ### One pass over a buffer (R110) -/

theorem runPass_get_same (s : State) (tr : Transform) (r : Region) (words : List Half) :
    (s.runPass tr r words).rom.get r = words := by rw [runPass_get, if_pos rfl]

/-- The frame of a pass: all that is not its buffer's words. -/
theorem runPass_frame (s : State) (tr : Transform) (r : Region) (words : List Half) :
    let t := s.runPass tr r words
    (∀ r', r' ≠ r → t.rom.get r' = s.rom.get r') ∧ t.decryptFlag = s.decryptFlag ∧
      t.bootDone = s.bootDone ∧ t.passes = s.passes ++ [{ transform := tr, region := r }] ∧
      sameEncTab s t ∧ sameShare s t ∧ t.shareBank = s.shareBank ∧ sameRegsBut [] s t ∧
      sameKeys s t ∧ sameProtocol s t ∧ sameOutside s t := by
  obtain ⟨encTab, share, bank, regs, -, keys, protocol, outside⟩ := sameBlock_refl s
  exact ⟨fun r' hr => by rw [runPass_get, if_neg hr], rfl, rfl, rfl, encTab, share, bank, regs,
    keys, protocol, outside⟩

/-! ### The positional decoders (R117, R120, R121) -/

theorem length_wdec (c : DecoderCfg) (key : Half) (words : List Half) :
    (wdec c key words).length = words.length := by rw [wdec, List.length_mapIdx]

theorem wdec_getElem? (c : DecoderCfg) (key : Half) {words : List Half} {j : Nat} {w : Half}
    (h : words[j]? = some w) :
    (wdec c key words)[j]? = some (if j % 2 = c.phase.val then decodeWord c key j w else w) := by
  rw [wdec, List.getElem?_mapIdx, h, Option.map_some]

/-- Settles O56: the words by `wdec_getElem?`, their bits by the permutation's. -/
theorem positionalDecodersVisitOneParity : Obligations.PositionalDecodersVisitOneParity := by
  intro s r key i c tr hi
  have pass : exec i s = .next (s.runPass tr r (wdec c key (s.rom.get r))) := by
    rcases hi with ⟨rfl, rfl, rfl⟩ | ⟨rfl, rfl, rfl⟩ <;> rfl
  refine ⟨_, pass, ?length, fun j w hw hj => ?kept, fun j w hw hj => ?decoded,
    runPass_frame s tr r _⟩
  case length => rw [runPass_get_same, length_wdec]
  case kept => rw [runPass_get_same, wdec_getElem? c key hw, if_neg hj]
  case decoded =>
    refine ⟨decodeWord c key j w, ?_, getLsbD_permute16 c.perm _⟩
    rw [runPass_get_same, wdec_getElem? c key hw, if_pos hj]

/-! ### The colour repack (R123) -/

theorem length_repack (P : Perm16) (words : List Half) :
    (repack P words).length = words.length := by
  rw [repack, List.length_map]

theorem exec_crepack (r : Region) (s : State) : exec (.crepack r) s =
    .next (s.runPass .crepack r (repack Config.cfg.permColor (s.rom.get r))) := rfl

/-- Settles O57: each word by its permutation. -/
theorem colourRepackPermutesEveryWord : Obligations.ColourRepackPermutesEveryWord := by
  intro s r
  refine ⟨_, exec_crepack r s, ?length, fun j w hw => ?permuted, runPass_frame s _ r _⟩
  case length => rw [runPass_get_same, length_repack]
  case permuted =>
    refine ⟨permute16 Config.cfg.permColor w, ?_, getLsbD_permute16 Config.cfg.permColor w⟩
    rw [runPass_get_same, repack, List.getElem?_map, hw, Option.map_some]

/-! ### The module layer (R125) -/

theorem modXorInRange_iff (addrMask n : Nat) :
    modXorInRange addrMask n = true ↔ ¬leavesBuffer addrMask n := by
  simp [modXorInRange, leavesBuffer]

theorem modXor_of_inRange {addrMask : Nat} {words : List Half} (dataMask : Half)
    (h : ¬leavesBuffer addrMask words.length) :
    modXor addrMask dataMask words = some (modXorWords addrMask dataMask words) :=
  if_pos ((modXorInRange_iff addrMask words.length).mpr h)

theorem modXor_of_leaves {addrMask : Nat} {words : List Half} (dataMask : Half)
    (h : leavesBuffer addrMask words.length) : modXor addrMask dataMask words = none :=
  if_neg fun hin => (modXorInRange_iff addrMask words.length).mp hin h

theorem exec_modxor_of_inRange {s : State} {r : Region} {addrMask : Nat} (dataMask : Half)
    (h : ¬leavesBuffer addrMask (s.rom.get r).length) : exec (.modxor r addrMask dataMask) s =
      .next (s.runPass .modxor r (modXorWords addrMask dataMask (s.rom.get r))) := by
  simp only [exec, execModxor, modXor_of_inRange dataMask h]

theorem exec_modxor_of_leaves {s : State} {r : Region} {addrMask : Nat} (dataMask : Half)
    (h : leavesBuffer addrMask (s.rom.get r).length) :
    exec (.modxor r addrMask dataMask) s = .refused .moduleOutsideBuffer := by
  simp only [exec, execModxor, modXor_of_leaves dataMask h]

theorem length_modXorWords (addrMask : Nat) (dataMask : Half) (words : List Half) :
    (modXorWords addrMask dataMask words).length = words.length := by simp [modXorWords]

/-- Word `j` of the result is the old word `j ^ addrMask`, exclusive or `dataMask`. -/
theorem modXorWords_getElem? {addrMask : Nat} {words : List Half} (dataMask : Half)
    (h : ¬leavesBuffer addrMask words.length) {j : Nat} (hj : j < words.length) :
    ∃ w, words[j ^^^ addrMask]? = some w ∧
      (modXorWords addrMask dataMask words)[j]? = some (w ^^^ dataMask) := by
  have source : j ^^^ addrMask < words.length := Nat.lt_of_not_le fun hle => h ⟨j, hj, hle⟩
  exact ⟨words[j ^^^ addrMask], List.getElem?_eq_getElem source, by simp [modXorWords, hj, source]⟩

/-- The module layer is its own inverse. -/
theorem modXorWords_modXorWords {addrMask : Nat} {words : List Half} (dataMask : Half)
    (h : ¬leavesBuffer addrMask words.length) :
    modXorWords addrMask dataMask (modXorWords addrMask dataMask words) = words := by
  have len := length_modXorWords addrMask dataMask words
  apply List.ext_getElem?
  intro j
  by_cases hj : j < words.length
  case pos =>
    obtain ⟨w, hw, hres⟩ := modXorWords_getElem? dataMask (len.symm ▸ h) (len.symm ▸ hj)
    have source : j ^^^ addrMask < words.length := Nat.lt_of_not_le fun hle => h ⟨j, hj, hle⟩
    obtain ⟨w', hw', hmid⟩ := modXorWords_getElem? dataMask h source
    rw [Nat.xor_xor_cancel_right] at hw'
    cases hmid.symm.trans hw
    rw [hres, hw', BitVec.xor_assoc, BitVec.xor_self, BitVec.xor_zero]
  case neg =>
    rw [List.getElem?_eq_none (Nat.le_of_not_lt hj), List.getElem?_eq_none]
    rw [length_modXorWords, len]
    exact Nat.le_of_not_lt hj

/-- In a buffer of whole blocks of `2 ^ k` words a mask below `2 ^ k` stays inside the block. -/
theorem not_leavesBuffer_of_blocks {addrMask n k : Nat} (hmask : addrMask < 2 ^ k)
    (hblocks : n % 2 ^ k = 0) : ¬leavesBuffer addrMask n := by
  rintro ⟨i, hi, hout⟩
  have sameBlockIndex : (i ^^^ addrMask) / 2 ^ k = i / 2 ^ k := by
    rw [Nat.xor_div_two_pow, Nat.div_eq_of_lt hmask, Nat.xor_zero]
  obtain ⟨q, rfl⟩ := Nat.dvd_of_mod_eq_zero hblocks
  have hpos : 0 < 2 ^ k := Nat.two_pow_pos k
  have below : (i ^^^ addrMask) / 2 ^ k < q := sameBlockIndex ▸ Nat.div_lt_of_lt_mul hi
  rw [Nat.div_lt_iff_lt_mul hpos, Nat.mul_comm] at below
  exact absurd hout (Nat.not_le.mpr below)

/-- Settles O58: the words by `modXorWords_getElem?`, the second run by the layer's being its own
inverse. -/
theorem moduleXorPermutesTheBuffer : Obligations.ModuleXorPermutesTheBuffer := by
  refine ⟨fun _ _ _ hmask hblocks => not_leavesBuffer_of_blocks hmask hblocks,
    fun s r addrMask dataMask inRange => ?_⟩
  refine ⟨_, exec_modxor_of_inRange dataMask inRange, ?length, fun j hj => ?words, ?restored,
    runPass_frame s _ r _⟩
  case length => rw [runPass_get_same, length_modXorWords]
  case words =>
    rw [runPass_get_same]
    exact modXorWords_getElem? dataMask inRange hj
  case restored =>
    refine ⟨_, exec_modxor_of_inRange dataMask ?_, ?_⟩
    · rwa [runPass_get_same, length_modXorWords]
    · rw [runPass_get_same, modXorWords_modXorWords dataMask inRange, runPass_rom, runPass_rom,
        RomBank.set_set, RomBank.set_get]

end Sys2Proof.Machine

/-! PROOFS. `DECRYPT_TITLE` (41_decrypt_engine.md section 1) and the refusals (60_exceptions.md
section 1): the boot step layer by layer, and exactly which operations have no meaning where. -/

namespace Sys2Proof.Machine

open Sys2Proof.Claims

/-! ### The module layer of a title (R141) -/

/-- The state after the optional module layer: its pass, where the title has one. -/
def afterModule (tk : TitleKeys) (s : State) : State :=
  match tk.moduleLayer with
  | none => s
  | some (addrMask, dataMask) => s.runPass .modxor Config.cfg.moduleRegion
      (modXorWords addrMask dataMask (s.rom.get Config.cfg.moduleRegion))

/-- The record of the optional module layer. -/
def modulePasses (tk : TitleKeys) : List Pass :=
  match tk.moduleLayer with
  | none => []
  | some _ => [{ transform := .modxor, region := Config.cfg.moduleRegion }]

/-- The module layer changes its buffer and the record, and nothing else. -/
theorem afterModule_eq (tk : TitleKeys) (s : State) : afterModule tk s =
    { s with rom := (afterModule tk s).rom, passes := s.passes ++ modulePasses tk } := by
  cases layer : tk.moduleLayer with
  | none => simp only [afterModule, modulePasses, layer, List.append_nil]
  | some masks => simp only [afterModule, modulePasses, layer, State.runPass]

/-- A buffer that is not the module region's, or any with no layer, stays. -/
theorem afterModule_get {tk : TitleKeys} {r : Region} (s : State)
    (h : tk.moduleLayer = none ∨ r ≠ Config.cfg.moduleRegion) :
    (afterModule tk s).rom.get r = s.rom.get r := by
  cases layer : tk.moduleLayer with
  | none => simp only [afterModule, layer]
  | some masks =>
    have other : r ≠ Config.cfg.moduleRegion := h.resolve_left (by simp [layer])
    simp only [afterModule, layer, runPass_get, if_neg other]

theorem length_afterModule (tk : TitleKeys) (s : State) (r : Region) :
    ((afterModule tk s).rom.get r).length = (s.rom.get r).length := by
  by_cases h : tk.moduleLayer = none ∨ r ≠ Config.cfg.moduleRegion
  case pos => rw [afterModule_get s h]
  case neg =>
    obtain ⟨hlayer, hregion⟩ := not_or.mp h
    obtain ⟨masks, layer⟩ := Option.ne_none_iff_exists'.mp hlayer
    simp only [afterModule, layer, Decidable.of_not_not hregion, runPass_get_same,
      length_modXorWords]

theorem moduleLayer_of_inRange {tk : TitleKeys} {s : State} (h : ¬moduleLeavesBuffer tk s) :
    moduleLayer Config.cfg tk s.rom = some (afterModule tk s).rom := by
  cases layer : tk.moduleLayer with
  | none => simp only [moduleLayer, afterModule, layer]
  | some masks =>
    obtain ⟨addrMask, dataMask⟩ := masks
    have inRange : ¬leavesBuffer addrMask (s.rom.get Config.cfg.moduleRegion).length :=
      fun hout => h ⟨addrMask, dataMask, layer, hout⟩
    simp only [moduleLayer, afterModule, layer, modXor_of_inRange dataMask inRange, runPass_rom]

theorem moduleLayer_of_leaves {tk : TitleKeys} {s : State} (h : moduleLeavesBuffer tk s) :
    moduleLayer Config.cfg tk s.rom = none := by
  obtain ⟨addrMask, dataMask, layer, hout⟩ := h
  simp only [moduleLayer, layer, modXor_of_leaves dataMask hout]

/-! ### The boot step (R141, R143) -/

theorem exec_decryptTitle_again {s : State} (tk : TitleKeys) (booted : s.bootDone = true) :
    exec (.decryptTitle tk) s = .refused .titleAlreadyDecrypted := by
  simp only [exec, execDecryptTitle, booted, if_true]

theorem exec_decryptTitle_of_leaves {s : State} {tk : TitleKeys} (unbooted : s.bootDone = false)
    (h : moduleLeavesBuffer tk s) :
    exec (.decryptTitle tk) s = .refused .moduleOutsideBuffer := by
  simp [exec, execDecryptTitle, unbooted, decryptTitleRom, moduleLayer_of_leaves h]

theorem exec_decryptTitle_of_inRange {s : State} {tk : TitleKeys} (unbooted : s.bootDone = false)
    (h : ¬moduleLeavesBuffer tk s) : exec (.decryptTitle tk) s =
      .next { s with
        rom := spriteLayers Config.cfg tk (afterModule tk s).rom
        bootDone := true
        passes := s.passes ++ titlePasses Config.cfg tk } := by
  simp [exec, execDecryptTitle, unbooted, decryptTitleRom, moduleLayer_of_inRange h]

/-! ### The boot step as the three sprite passes after the module layer -/

/-- The state after decoder A on the sprite mask. -/
def afterMask (tk : TitleKeys) (s : State) : State :=
  s.runPass .wdeca .spriteMask (wdec Config.cfg.wdecA tk.maskKey (s.rom.get .spriteMask))

/-- The state after decoder B on the sprite colour. -/
def afterColor (tk : TitleKeys) (s : State) : State :=
  s.runPass .wdecb .spriteColor (wdec Config.cfg.wdecB tk.colorKey (s.rom.get .spriteColor))

/-- The state after the colour repack. -/
def afterRepack (s : State) : State :=
  s.runPass .crepack .spriteColor (repack Config.cfg.permColor (s.rom.get .spriteColor))

/-- The three passes together are the sprite layers and their record. -/
theorem afterRepack_eq (tk : TitleKeys) (s : State) : afterRepack (afterColor tk (afterMask tk s)) =
    { s with
      rom := spriteLayers Config.cfg tk s.rom
      passes := s.passes ++ [{ transform := .wdeca, region := .spriteMask },
        { transform := .wdecb, region := .spriteColor },
        { transform := .crepack, region := .spriteColor }] } := by
  simp only [afterRepack, afterColor, afterMask, State.runPass, List.append_assoc,
    List.singleton_append]
  rfl

/-- Settles O59: the layers' passes by name, and their record in the boot step's order. -/
theorem titleDecryptIsItsStepsInOrder : Obligations.TitleDecryptIsItsStepsInOrder := by
  intro s tk unbooted inRange
  have notLeaves : ¬moduleLeavesBuffer tk s := fun ⟨m, d, layer, hout⟩ => inRange m d layer hout
  refine ⟨afterModule tk s, _, _, _, ?module, rfl, rfl, rfl, ?whole⟩
  case module =>
    cases layer : tk.moduleLayer with
    | none => simp only [afterModule, layer]
    | some masks =>
      obtain ⟨addrMask, dataMask⟩ := masks
      simp only [afterModule, layer]
      exact exec_modxor_of_inRange dataMask (inRange addrMask dataMask layer)
  case whole =>
    have chain := afterRepack_eq tk (afterModule tk s)
    have record : (afterModule tk s).passes = s.passes ++ modulePasses tk :=
      congrArg State.passes (afterModule_eq tk s)
    rw [exec_decryptTitle_of_inRange unbooted notLeaves]
    change _ = Host.Outcome.next
      { afterRepack (afterColor tk (afterMask tk (afterModule tk s))) with bootDone := true }
    rw [chain, record, List.append_assoc, afterModule_eq]
    rfl

/-! ### What the boot step leaves (R32, R141) -/

theorem spriteLayers_get_other (c : Cfg) (tk : TitleKeys) (rom : RomBank) {r : Region}
    (notMask : r ≠ .spriteMask) (notColor : r ≠ .spriteColor) :
    (spriteLayers c tk rom).get r = rom.get r := by
  cases r with
  | program | tile => rfl
  | spriteMask => exact absurd rfl notMask
  | spriteColor => exact absurd rfl notColor

theorem length_spriteLayers (c : Cfg) (tk : TitleKeys) (rom : RomBank) (r : Region) :
    ((spriteLayers c tk rom).get r).length = (rom.get r).length := by
  cases r with
  | program | tile => rfl
  | spriteMask => exact length_wdec ..
  | spriteColor => exact (length_repack ..).trans (length_wdec ..)

/-- Settles O60: a boot step that answers is the first one with its module layer in range. -/
theorem titleDecryptLeavesOtherBuffers : Obligations.TitleDecryptLeavesOtherBuffers := by
  intro s t tk h
  have unbooted : s.bootDone = false := by
    by_contra booted
    rw [exec_decryptTitle_again tk (Bool.not_eq_false _ ▸ booted)] at h
    cases h
  have notLeaves : ¬moduleLeavesBuffer tk s := by
    intro hout
    rw [exec_decryptTitle_of_leaves unbooted hout] at h
    cases h
  rw [exec_decryptTitle_of_inRange unbooted notLeaves] at h
  cases h
  obtain ⟨encTab, share, bank, regs, -, keys, protocol, outside⟩ := sameBlock_refl s
  refine ⟨unbooted, rfl, rfl, rfl, fun r notMask notColor kept => ?others, fun r => ?lengths,
    encTab, share, bank, regs, keys, protocol, outside⟩
  case others =>
    exact (spriteLayers_get_other _ tk _ notMask notColor).trans (afterModule_get s kept)
  case lengths => exact (length_spriteLayers _ tk _ r).trans (length_afterModule tk s r)

/-! ### Where an operation has no meaning (R125, R143, R209, R220) -/

theorem exec_cread_tooLong {a : CmdArgs} {s : State} (h : copyTooLong a s) :
    exec (.cread a) s = .refused .copyBeyondBank := by
  obtain ⟨card, long⟩ := (copyTooLong_iff a s).mp h
  simp only [exec, execCread, if_pos card, if_neg long]

theorem exec_cwrite_tooLong {a : CmdArgs} {s : State} (h : copyTooLong a s) :
    exec (.cwrite a) s = .refused .copyBeyondBank := by
  obtain ⟨card, long⟩ := (copyTooLong_iff a s).mp h
  simp only [exec, execCwrite, if_pos card, if_neg long]

/-- An issue stops where the copy it runs does. -/
theorem exec_issue_tooLong {v : Word} {s : State} (h : issuesTooLongCopy v s) :
    exec (.mcuIssue v) s = .refused .copyBeyondBank := by
  obtain ⟨hv, hc, long⟩ := h
  have untouched : (s.setReg 2 v).reg 0 = s.reg 0 := reg_setReg_other s v (by decide)
  have told : decodeCommand ((s.setReg 2 v).reg 0) =
      (cmdOp (commandByte (s.setReg 2 v))).toInstr (commandArgs (s.setReg 2 v)) := rfl
  rw [exec_issue s hv, ← untouched, told]
  rcases hc with hc | hc
  case inl => rw [hc]; exact exec_cread_tooLong (s := s.setReg 2 v) long
  case inr => rw [hc]; exact exec_cwrite_tooLong (s := s.setReg 2 v) long

theorem exec_timerFire_of_none {s : State} (h : s.pendingEvent = none) :
    exec .timerFire s = .refused .timerNotArmed := by
  simp only [exec, execTimerFire, h]

theorem exec_timerFire_of_pending {s : State} (h : s.pendingEvent ≠ none) :
    exec .timerFire s = .next ({ s with pendingEvent := none }.raiseIrq .mcu) := by
  obtain ⟨c, hc⟩ := Option.ne_none_iff_exists'.mp h
  simp only [exec, execTimerFire, hc]

/-- Settles O12: each case by its own rule. -/
theorem refusalsCarryTheirName : Obligations.RefusalsCarryTheirName :=
  ⟨fun _ _ _ dataMask h => exec_modxor_of_leaves dataMask h,
    fun _ tk booted => exec_decryptTitle_again tk booted,
    fun _ _ unbooted h => exec_decryptTitle_of_leaves unbooted h,
    fun _ _ h => ⟨exec_cread_tooLong h, exec_cwrite_tooLong h⟩,
    fun _ _ h => exec_issue_tooLong h, fun _ h => exec_timerFire_of_none h⟩

/-- Where its own rule gives an operation no meaning, it is refused. -/
theorem exec_refused_of_specRefuses {i : Instr} {s : State} (h : specRefuses i s) :
    ∃ reason, exec i s = .refused reason := by
  cases i with
  | modxor r addrMask dataMask => exact ⟨_, exec_modxor_of_leaves dataMask h⟩
  | decryptTitle tk =>
    cases booted : s.bootDone with
    | true => exact ⟨_, exec_decryptTitle_again tk booted⟩
    | false => exact ⟨_, exec_decryptTitle_of_leaves booted (h.resolve_left (by simp [booted]))⟩
  | cread a => exact ⟨_, exec_cread_tooLong h⟩
  | cwrite a => exact ⟨_, exec_cwrite_tooLong h⟩
  | mcuIssue v => exact ⟨_, exec_issue_tooLong h⟩
  | timerFire => exact ⟨_, exec_timerFire_of_none h⟩
  | _ => exact h.elim

/-- An issue that runs no copy of too many bytes completes. -/
theorem exec_issue_completes {v : Word} {s : State} (h : ¬issuesTooLongCopy v s) :
    ∃ t, exec (.mcuIssue v) s = .next t := by
  by_cases hv : v = 0#32
  case pos =>
    subst hv
    exact ⟨_, rfl⟩
  case neg =>
    have untouched : (s.setReg 2 v).reg 0 = s.reg 0 := reg_setReg_other s v (by decide)
    have short : commandByte (s.setReg 2 v) = 0xC2#8 ∨ commandByte (s.setReg 2 v) = 0xC3#8 →
        ¬copyTooLong (commandArgs (s.setReg 2 v)) (s.setReg 2 v) :=
      fun hc long => h ⟨hv, hc, long⟩
    obtain ⟨t, ht, -⟩ := command_reports _ _ (s.setReg 2 v) short
    exact ⟨t, by rw [exec_issue s hv, ← untouched]; exact ht⟩

/-- Everywhere else it completes. -/
theorem exec_completes {i : Instr} {s : State} (h : ¬specRefuses i s) :
    ∃ t, exec i s = .next t := by
  cases i with
  | modxor r addrMask dataMask => exact ⟨_, exec_modxor_of_inRange dataMask h⟩
  | decryptTitle tk =>
    obtain ⟨unbooted, notLeaves⟩ := not_or.mp h
    exact ⟨_, exec_decryptTitle_of_inRange (Bool.eq_false_iff.mpr unbooted) notLeaves⟩
  | cread a =>
    obtain ⟨t, ht, -⟩ := cardReadFillsTheOppositeBank s a h
    exact ⟨t, ht⟩
  | cwrite a => exact ⟨_, exec_cwrite h⟩
  | mcuIssue v => exact exec_issue_completes h
  | mcuAck v =>
    by_cases ignored : v = 0#32 ∨ s.lastCommand = 0#8
    case pos => exact ⟨_, exec_ack_ignored ignored⟩
    case neg =>
      obtain ⟨hv, outstanding⟩ := not_or.mp ignored
      exact ⟨_, exec_ack hv outstanding⟩
  | timerFire => exact ⟨_, exec_timerFire_of_pending h⟩
  | dectrigW data =>
    cases flag : s.decryptFlag with
    | true => exact ⟨_, exec_dectrigW_later data flag⟩
    | false => exact ⟨_, exec_dectrigW_first data flag⟩
  | sprkeyW v => exact ⟨_, exec_sprkeyW s v⟩
  | mcuregR idx =>
    obtain ⟨t, ht, -⟩ := exec_mcuregR idx s
    exact ⟨t, ht⟩
  | _ => exact ⟨_, rfl⟩

/-- Settles O11: an operation is refused or completes, as its rule says. -/
theorem operationsCompleteUnlessTheSpecRefuses :
    Obligations.OperationsCompleteUnlessTheSpecRefuses := by
  refine fun i s => ⟨fun ⟨t, ht⟩ refuses => ?refused, exec_completes⟩
  case refused =>
    obtain ⟨reason, hr⟩ := exec_refused_of_specRefuses refuses
    exact nomatch ht.symm.trans hr

end Sys2Proof.Machine

/-! PROOFS. The events, the CARDS agent, the resets, save and restore (44_mcu_protocol.md section 5,
45_dispatcher_rtc_card.md section 4, 70_reset_and_hazards.md, 10_state.md sections 7 and 8). -/

namespace Sys2Proof.Machine

open Sys2Proof.Claims

/-! ### The two events (R220, R264) -/

/-- The frame of an event: all that is neither the event slot nor the history, whatever they
become. -/
theorem eventUpdate_frame (s : State) (pending : Option Completion) (events : List Event) :
    let t := { s with pendingEvent := pending, events := events }
    sameEncTab s t ∧ sameShare s t ∧ t.shareBank = s.shareBank ∧ sameRegsBut [] s t ∧
      sameEngine s t ∧ sameKeys s t ∧ sameRun s t ∧ t.cards = s.cards ∧ t.rtcLast = s.rtcLast ∧
      t.readData = s.readData := by
  obtain ⟨encTab, share, bank, regs, engine, keys, -, run, -⟩ := sameBlock_refl s
  exact ⟨encTab, share, bank, regs, engine, keys, run, rfl, rfl, rfl⟩

theorem exec_frameTick (s : State) : exec .frameTick s = .next (s.raiseIrq .frame) := rfl

/-- Settles O45: each event by its own rule and the frame of events. -/
theorem eventsOnlyRaiseTheirInterrupt : Obligations.EventsOnlyRaiseTheirInterrupt := by
  refine ⟨fun s pending => ?fire, fun s => ?tick⟩
  case fire =>
    exact ⟨_, exec_timerFire_of_pending pending, rfl, rfl, rfl, rfl, rfl,
      eventUpdate_frame s none _⟩
  case tick =>
    obtain ⟨encTab, share, bank, regs, engine, keys, rest⟩ :=
      eventUpdate_frame s s.pendingEvent (s.events ++ [.irq .frame])
    exact ⟨_, exec_frameTick s, rfl, encTab, share, bank, regs, engine, keys, ⟨rfl, rfl, rfl, rfl⟩,
      rest⟩

/-! ### The CARDS agent (R249) -/

theorem step_insertCard {s : State} {slot : Fin 4} {image : List Byte} {rest : List Input}
    (next : s.schedule = .insertCard slot image :: rest) (empty : s.cards[slot] = none) :
    step s = .next { s with schedule := rest, cards := s.cards.set slot (some image) } := by
  simp [step, fetch, next, insertCard, State.cardPresent, empty]

theorem step_removeCard {s : State} {slot : Fin 4} {rest : List Input}
    (next : s.schedule = .removeCard slot :: rest) (card : s.cards[slot] ≠ none) :
    step s = .next { s with schedule := rest, cards := s.cards.set slot none } := by
  have present : { s with schedule := rest }.cardPresent slot = true :=
    (cardPresent_iff s slot).mpr card
  simp only [step, fetch, next, removeCard, if_pos present]

/-- Settles O46: the slot by the step, the other slots by the law of a rewritten slot. -/
theorem cardsComeAndGoBetweenOperations : Obligations.CardsComeAndGoBetweenOperations := by
  refine ⟨fun s slot image rest next empty => ?insert, fun s slot rest next card => ?remove⟩
  case insert =>
    exact ⟨_, step_insertCard next empty, cards_set_same s.cards slot _,
      fun _ hj => cards_set_other s.cards _ hj, rfl, rfl⟩
  case remove =>
    exact ⟨_, step_removeCard next card, cards_set_same s.cards slot _,
      fun _ hj => cards_set_other s.cards _ hj, rfl⟩

/-! ### The resets (10_state.md R41, R290, R291) -/

/-- Every register of a fresh machine is zero. -/
theorem reg_reset (j : Fin 8) : State.reset.reg j = 0#32 := by
  simp [State.reg, State.reset]

theorem step_warmReset {s : State} {rest : List Input} (next : s.schedule = .warmReset :: rest) :
    step s = .next (warmReset { s with schedule := rest }) := by
  simp only [step, fetch, next]

/-- Settles O47: what is retained is the old field, what is set is the fresh machine's. -/
theorem warmResetRetainsTheBuffersAndTheirFlags :
    Obligations.WarmResetRetainsTheBuffersAndTheirFlags := by
  intro s rest next
  exact ⟨_, step_warmReset next, ⟨rfl, rfl, rfl, rfl⟩, rfl, rfl, rfl, reg_reset, rfl, rfl, rfl, rfl,
    rfl, rfl, fun _ => rfl, fun _ => rfl, rfl⟩

/-- Settles O50: field by field. -/
theorem resetLeavesTheListedValues : Obligations.ResetLeavesTheListedValues := by
  refine ⟨rfl, rfl, rfl, reg_reset, rfl, rfl, rfl, rfl, rfl, rfl, fun _ => rfl, fun _ => rfl,
    fun r => ?buffers, rfl, fun slot => ?slots⟩
  case buffers => cases r <;> rfl
  case slots => simp [State.reset]

/-! ### The words of an image (20_memory.md R52) -/

/-- The word of two image bytes in the given order. -/
def imageWord (order : WordOrder) (b0 b1 : Byte) : Half :=
  match order with
  | .little => b1 ++ b0
  | .big => b0 ++ b1

/-- An image of two bytes and more has the words of the rest after its first word. -/
theorem wordsOfImage_cons (order : WordOrder) (b0 b1 : Byte) (rest : List Byte) :
    wordsOfImage order (b0 :: b1 :: rest) =
      (wordsOfImage order rest).map (imageWord order b0 b1 :: ·) := by
  cases h : wordsOfImage order rest <;> cases order <;> simp [wordsOfImage, h, imageWord]

/-- The two bytes of an image word. -/
theorem bytes_imageWord (order : WordOrder) (b0 b1 : Byte) :
    (imageWord order b0 b1).extractLsb' (if order = .little then 0 else 8) 8 = b0 ∧
      (imageWord order b0 b1).extractLsb' (if order = .little then 8 else 0) 8 = b1 := by
  cases order with
  | little => exact ⟨BitVec.extractLsb'_append_eq_right, BitVec.extractLsb'_append_eq_left⟩
  | big => exact ⟨BitVec.extractLsb'_append_eq_left, BitVec.extractLsb'_append_eq_right⟩

/-- An image has a word view exactly if its length is even. -/
theorem wordsOfImage_isSome_iff (order : WordOrder) (image : List Byte) :
    (wordsOfImage order image).isSome = true ↔ image.length % 2 = 0 := by
  match image with
  | [] => simp [wordsOfImage]
  | [_] => simp [wordsOfImage]
  | b0 :: b1 :: rest =>
    rw [wordsOfImage_cons, Option.isSome_map, wordsOfImage_isSome_iff order rest, List.length_cons,
      List.length_cons]
    omega

/-- Word `i` is the bytes `2i` and `2i + 1`. -/
theorem wordsOfImage_bytes {order : WordOrder} {image : List Byte} {words : List Half}
    (h : wordsOfImage order image = some words) : 2 * words.length = image.length ∧
      ∀ i w, words[i]? = some w →
        image[2 * i]? = some (w.extractLsb' (if order = .little then 0 else 8) 8) ∧
        image[2 * i + 1]? = some (w.extractLsb' (if order = .little then 8 else 0) 8) := by
  match image with
  | [] =>
    cases h
    exact ⟨rfl, fun i w hw => by simp at hw⟩
  | [_] => cases h
  | b0 :: b1 :: rest =>
    rw [wordsOfImage_cons, Option.map_eq_some_iff] at h
    obtain ⟨ws, hws, rfl⟩ := h
    obtain ⟨hlen, hbytes⟩ := wordsOfImage_bytes hws
    refine ⟨by rw [List.length_cons, List.length_cons, List.length_cons]; omega, fun i w hw => ?_⟩
    cases i with
    | zero =>
      cases hw
      obtain ⟨h0, h1⟩ := bytes_imageWord order b0 b1
      rw [h0, h1]
      exact ⟨rfl, rfl⟩
    | succ i => exact hbytes i w hw

/-- Settles O49: both parts by induction over the image, two bytes at a time. -/
theorem imageWordsFollowTheWordOrder : Obligations.ImageWordsFollowTheWordOrder :=
  ⟨wordsOfImage_isSome_iff, fun _ _ _ h => wordsOfImage_bytes h⟩

/-! ### The cold reset (R290) -/

/-- An image of even length has words, in whatever order the platform has. -/
theorem exists_words_of_even {image : List Byte} (h : image.length % 2 = 0) :
    ∃ words, wordsOfImage Config.cfg.romWordOrder image = some words :=
  Option.isSome_iff_exists.mp ((wordsOfImage_isSome_iff Config.cfg.romWordOrder image).mpr h)

/-- Settles O48: each image has its words, and the rest are the cold values. -/
theorem coldResetLoadsTheImages : Obligations.ColdResetLoadsTheImages := by
  intro s images title rest next hp hm hc ht
  obtain ⟨p, program⟩ := exists_words_of_even hp
  obtain ⟨m, mask⟩ := exists_words_of_even hm
  obtain ⟨c, color⟩ := exists_words_of_even hc
  obtain ⟨t, tile⟩ := exists_words_of_even ht
  have loaded : step s = .next (coldReset ⟨p, m, c, t⟩ title { s with schedule := rest }) := by
    simp only [step, fetch, next, coldResetImages, loadImages, program, mask, color, tile]
  exact ⟨_, loaded, rfl, rfl, rfl, program, mask, color, tile, rfl, rfl, rfl, reg_reset, rfl, rfl,
    rfl, rfl, rfl, rfl, fun _ => rfl, fun _ => rfl⟩

/-! ### Save and restore (R42, R309) -/

/-- Settles O51: the saved set field by field; the invariants are of that set and the passes. -/
theorem saveAndRestoreCarryTheSaveSet : Obligations.SaveAndRestoreCarryTheSaveSet := by
  refine fun s u => ⟨fun _ => rfl, fun _ => rfl, rfl, fun _ _ => rfl, rfl, rfl, ⟨rfl, rfl⟩,
    ⟨rfl, rfl, rfl, rfl⟩, rfl, rfl, rfl, fun hs passes => ?invariants⟩
  case invariants =>
    exact { hs with
      one_pass := passes ▸ hs.one_pass
      no_pass_before_boot := fun h => passes.trans (hs.no_pass_before_boot h)
      no_program_pass_before_trigger := fun h => passes ▸ hs.no_program_pass_before_trigger h }

end Sys2Proof.Machine
